-- ==== Sys2Proof/Word.lean ====
section
/-! DEFINITION. The value types of spec/00_scope.md R8: all unsigned, all of one fixed width. -/

namespace Sys2Proof

/-- `Byte`: an unsigned 8-bit value (00_scope.md R8), bit 0 the least significant (R7). -/
abbrev Byte := BitVec 8

/-- `Bits3`: an unsigned 3-bit value, 0 to 7 (00_scope.md R8): a DMA channel or a byte index. -/
abbrev Bits3 := BitVec 3

/-- `Addr`: an unsigned `ADDR_W`-bit configuration-space address, `ADDR_W = 16` (00_scope.md R5, R8). -/
abbrev Addr := BitVec 16

/-- The notional 27-bit host-operation word, format T (30_encoding.md R61). -/
abbrev Word := BitVec 27

/-- An engine I/O address (00_scope.md R5, the type of `BASE_ADDR`). The block only passes it on:
the spec gives it no width and nothing adds, shifts or masks it, so it is a number
(DESIGN CHOICE, safe, log 11). -/
abbrev IoAddr := Nat

end Sys2Proof
end

