-- ==== Sys2Proof/Syntax.lean ====
section
/-! DEFINITION. The operations of the block (spec/30_encoding.md R60), the raw fields of a notional word (R61) and the
pseudo-operations (R70). -/

namespace Sys2Proof

/-- The six host operations, one constructor per row of spec/opcode_table.json (30_encoding.md R60). The instance
handle is implicit: a model of one block is a model of one instance (R60). -/
inductive Instr where
  /-- READ of address `a` (40_read.md R80). -/
  | rd (a : Addr)
  /-- WRITE of value `v` to address `a` (41_write.md R90). -/
  | wr (a : Addr) (v : Byte)
  /-- FEEDBACK (42_lifecycle.md R110). -/
  | fb
  /-- RESET, the system reset pass-through (42_lifecycle.md R111). -/
  | rst
  /-- INIT, construction and power-on (42_lifecycle.md R112). -/
  | init
  /-- CLOSE, teardown (42_lifecycle.md R114). -/
  | close
deriving DecidableEq, Repr

/-- The three fields of a format T word before any meaning is given to them (30_encoding.md R61). -/
structure OpFields where
  /-- `w[26:24]`, the operation selector. -/
  kind : Bits3
  /-- `w[23:8]`, the address operand. -/
  addr : Addr
  /-- `w[7:0]`, the value operand. -/
  data : Byte
deriving DecidableEq, Repr

/-- The pseudo-operations of 30_encoding.md R70, each of which expands to one WRITE. -/
inductive Pseudo where
  /-- `CFGWR v`: write the mode byte. -/
  | cfgwr (v : Byte)
  /-- `ENABLE c`: attach on channel `c`. -/
  | enable (c : Bits3)
  /-- `DISABLE c`: detach, leaving channel `c` latched. -/
  | disable (c : Bits3)
deriving DecidableEq, Repr

end Sys2Proof
end

