-- ==== Sys2Proof/WellFormed.lean ====
section
/-! DEFINITION. Which format T fields stand for an operation (spec/30_encoding.md R62). Every term of `Instr` is
well-formed by its type: an address operand has exactly 16 bits and a value operand exactly 8 (R64), and every value of
each is legal (20_memory.md R46, 41_write.md R94). What can be ill-formed is a word, so the checks are on its fields. -/

namespace Sys2Proof

/-- `KIND` names an operation: it is not `110` or `111` (30_encoding.md R62). -/
def OpFields.kindDefined (f : OpFields) : Bool :=
  f.kind.toNat < 6

/-- `ADDR` is an operand (READ, WRITE) or zero (30_encoding.md R62). -/
def OpFields.addrAllowed (f : OpFields) : Bool :=
  f.kind.toNat < 2 || f.addr == 0#16

/-- `DATA` is an operand (WRITE) or zero (30_encoding.md R62). -/
def OpFields.dataAllowed (f : OpFields) : Bool :=
  f.kind == 1#3 || f.data == 0#8

/-- The fields satisfy every "must be" of 30_encoding.md R62. -/
def OpFields.wellFormed (f : OpFields) : Bool :=
  f.kindDefined && f.addrAllowed && f.dataAllowed

end Sys2Proof
end

