-- ==== Sys2Proof/Decode.lean ====
section
/-! DEFINITION. The decoder of the notional word (spec/30_encoding.md R61 to R64), total over all 2^27 words and
refusing by name; after it the encoder, written from the same tables, and the rows of spec/opcode_table.json. -/

namespace Sys2Proof

/-- Why a word has no meaning (30_encoding.md R63). -/
inductive WordRefusal where
  /-- `refuse(reserved_kind)`: `KIND` is `110` or `111`. -/
  | reservedKind
  /-- `refuse(nonzero_unused_field)`: a field marked "must be" zero is not. -/
  | nonzeroUnusedField
deriving DecidableEq, Repr

/-- What the decoder answers for a word. -/
inductive Decoded where
  | instr (i : Instr)
  | refused (r : WordRefusal)
deriving DecidableEq, Repr

/-- The fields of a word: `KIND = w[26:24]`, `ADDR = w[23:8]`, `DATA = w[7:0]` (30_encoding.md R61). -/
def fieldsOf (w : Word) : OpFields where
  kind := w.extractLsb' 24 3
  addr := w.extractLsb' 8 16
  data := w.extractLsb' 0 8

/-- The word of given fields: `KIND << 24 | ADDR << 8 | DATA` (30_encoding.md R61). -/
def wordOf (f : OpFields) : Word :=
  f.kind ++ f.addr ++ f.data

/-- An operation without operands: both other fields must be zero (30_encoding.md R62). -/
def decodeBare (f : OpFields) (i : Instr) : Decoded :=
  if f.addr = 0#16 ∧ f.data = 0#8 then .instr i else .refused .nonzeroUnusedField

/-- The `KIND` table of 30_encoding.md R62, row by row. -/
def decodeFields (f : OpFields) : Decoded :=
  if f.kind = 0b000#3 then
    if f.data = 0#8 then .instr (.rd f.addr) else .refused .nonzeroUnusedField
  else if f.kind = 0b001#3 then .instr (.wr f.addr f.data)
  else if f.kind = 0b010#3 then decodeBare f .fb
  else if f.kind = 0b011#3 then decodeBare f .rst
  else if f.kind = 0b100#3 then decodeBare f .init
  else if f.kind = 0b101#3 then decodeBare f .close
  else .refused .reservedKind

/-- The decoder: total over every word (30_encoding.md R63), no extension, scaling or sign (R64). -/
def decode (w : Word) : Decoded :=
  decodeFields (fieldsOf w)

/-- The instruction that the decoder reads from a word given as a number, bit 0 its least significant bit. A number
whose low `nbits` bits do not fit in 27 bits is no word of format T (30_encoding.md R68), so none (DESIGN CHOICE,
safe, log 14). -/
def decodeTableWord (nbits w : Nat) : Option Instr :=
  if w % 2 ^ nbits < 2 ^ 27 then
    match decode (BitVec.ofNat 27 (w % 2 ^ nbits)) with
    | .instr i => some i
    | .refused _ => none
  else none

/-- The fields of an operation's word, from the table of 30_encoding.md R62. -/
def encodeFields : Instr → OpFields
  | .rd a => ⟨0b000#3, a, 0#8⟩
  | .wr a v => ⟨0b001#3, a, v⟩
  | .fb => ⟨0b010#3, 0#16, 0#8⟩
  | .rst => ⟨0b011#3, 0#16, 0#8⟩
  | .init => ⟨0b100#3, 0#16, 0#8⟩
  | .close => ⟨0b101#3, 0#16, 0#8⟩

/-- The encoder: the word of an operation (30_encoding.md R61, R62, R69). -/
def encode (i : Instr) : Word :=
  wordOf (encodeFields i)

/-- One row of spec/opcode_table.json: a word stands for the row's operation iff `w &&& mask = bits`. -/
structure OpcodeRow where
  mnemonic : String
  bits : Word
  mask : Word
deriving DecidableEq, Repr

/-- The row of spec/opcode_table.json for each operation. -/
def opcodeRow : Instr → OpcodeRow
  | .rd _ => ⟨"RD", 0x0000000#27, 0x70000FF#27⟩
  | .wr _ _ => ⟨"WR", 0x1000000#27, 0x7000000#27⟩
  | .fb => ⟨"FB", 0x2000000#27, 0x7FFFFFF#27⟩
  | .rst => ⟨"RST", 0x3000000#27, 0x7FFFFFF#27⟩
  | .init => ⟨"INIT", 0x4000000#27, 0x7FFFFFF#27⟩
  | .close => ⟨"CLOSE", 0x5000000#27, 0x7FFFFFF#27⟩

/-- spec/opcode_table.json, row by row. -/
def opcodeTable : List OpcodeRow :=
  [opcodeRow (.rd 0#16), opcodeRow (.wr 0#16 0#8), opcodeRow .fb, opcodeRow .rst, opcodeRow .init, opcodeRow .close]

end Sys2Proof
end

