-- ==== Sys2Proof/Config.lean ====
section
/-! DEFINITION. What one adapter fixes (spec/00_scope.md R5, R6) and the one value the spec draws freely
(42_lifecycle.md R113). The constants without a body are free: no proof can see a value of them. -/

namespace Sys2Proof.Config

/-- The parameters of 00_scope.md R5 that the spec leaves OPEN (92_eei_decisions.md D3 to D6). `CFG_PORT` is held as
its upper 13 bits: R6 fixes its low three bits at 010, so every value of this type is a port that R6 allows, and every
such port is a value of this type (DESIGN CHOICE, safe, log 10). -/
structure Params where
  /-- `CFG_PORT[15:3]` (R5, R6). -/
  cfgPortHigh : BitVec 13
  /-- `BASE_ADDR`, where the engine is mapped while attached (R5). -/
  baseAddr : IoAddr
  /-- `IRQ_LINE`, the engine's interrupt line (R5, 10_state.md R29). -/
  irqLine : Nat
  /-- `DEFAULT_DMA`, the engine's channel at construction (R5). -/
  defaultDma : Bits3
deriving DecidableEq, Repr

/-- `CFG_PORT[15:3]` of the adapter that State.reset holds: OPEN in the spec (D3), so without a value (safe, log 9). -/
opaque cfgPortHigh : BitVec 13

/-- `BASE_ADDR` of the adapter that State.reset holds: OPEN in the spec (D4), so without a value (safe, log 9). -/
opaque baseAddr : IoAddr

/-- `IRQ_LINE` of the adapter that State.reset holds: OPEN in the spec (D5), so without a value (safe, log 9). -/
opaque irqLine : Nat

/-- `DEFAULT_DMA` of the adapter that State.reset holds: OPEN in the spec (D6), so without a value (safe, log 9). -/
opaque defaultDma : Bits3

/-- The parameters of the adapter that State.reset holds. -/
def params : Params where
  cfgPortHigh := cfgPortHigh
  baseAddr := baseAddr
  irqLine := irqLine
  defaultDma := defaultDma

/-- The free value `init_ok` of 42_lifecycle.md R113: `initOk n` is the outcome of the n-th draw, n counted by
`State.draws`. Nothing constrains it (safe, log 8). -/
opaque initOk : Nat → Bool

end Sys2Proof.Config
end

