-- ==== Sys2Proof/Machine/Boundary.lean ====
section
/-! DEFINITION. What crosses the block's boundary: the commands it issues to the engine and the dispatcher
(spec/10_state.md R32) and the values its operations hand back to the host (30_encoding.md R60). -/

namespace Sys2Proof.Machine

/-- A boundary event (10_state.md R32). -/
inductive Event where
  /-- `Create`, by INIT: construct the delegated engine. -/
  | create
  /-- `SetIrq(n)`, by INIT: assign interrupt line `n` to the engine. -/
  | setIrq (n : Nat)
  /-- `SetDma(c)`, by INIT and WRITE: set the engine's DMA channel. -/
  | setDma (c : Bits3)
  /-- `SetBase(a)`, by INIT: assign base address `a` to the engine. -/
  | setBase (a : IoAddr)
  /-- `Detach`, by INIT and WRITE: unmap the engine from the I/O address space. -/
  | detach
  /-- `Attach(a)`, by WRITE: map the engine at address `a`. -/
  | attach (a : IoAddr)
  /-- `EngineReset`, by RESET: forward the system reset to the engine. -/
  | engineReset
  /-- `Register`, by INIT: register the block with the dispatcher. -/
  | register
deriving DecidableEq, Repr

/-- What an operation hands back to the host (`return`, 00_scope.md R9). WRITE, RESET and CLOSE have no result
(30_encoding.md R60) and so no reply. -/
inductive Reply where
  /-- READ's byte (40_read.md R80). -/
  | byte (v : Byte)
  /-- FEEDBACK's Bool (42_lifecycle.md R110). -/
  | bit (b : Bool)
  /-- INIT succeeded (42_lifecycle.md R112). -/
  | success
  /-- INIT failed (42_lifecycle.md R113). -/
  | failure
deriving DecidableEq, Repr

end Sys2Proof.Machine
end

