-- ==== Sys2Proof/Machine/ResetValues.lean ====
section
/-! DEFINITION. The values a successful INIT leaves (spec/10_state.md R37, 42_lifecycle.md R112). -/

namespace Sys2Proof.Machine

/-- `RESET_CFG` (00_scope.md R5, 10_state.md R37), byte 0 first. The spec takes these literals as normative though its
source calls them unaudited (92_eei_decisions.md D20, log 19). -/
def resetCfg : Vector Byte 8 :=
  #v[0xFA#8, 0xDF#8, 0x3E#8, 0x04#8, 0x04#8, 0x00#8, 0x00#8, 0x00#8]

/-- The events of a successful INIT in the order of 42_lifecycle.md R112 (log 18). -/
def initEvents (p : Config.Params) : List Event :=
  [.create, .setIrq p.irqLine, .setDma p.defaultDma, .setBase p.baseAddr, .detach, .register]

end Sys2Proof.Machine
end

