-- ==== Sys2Proof/Machine/Operands.lean ====
section
/-! DEFINITION. The operand forms: the index of an address, the fields of a mode byte, the designated port and the write
gate (spec/30_encoding.md R64 to R66, 00_scope.md R6, 20_memory.md R42). The operands `a = w[23:8]` and `v = w[7:0]` (R64)
are extracted by the decoder. -/

namespace Sys2Proof.Machine

/-- `idx(a) = a[2:0]`, the configuration byte that address `a` selects (30_encoding.md R65). -/
def idx (a : Addr) : Bits3 :=
  a.extractLsb' 0 3

/-- `en(v) = v[0]`: attach (30_encoding.md R66). -/
def en (v : Byte) : Bool :=
  v.getLsbD 0

/-- `ch(v) = v[6:4]`: the DMA channel (30_encoding.md R66). -/
def ch (v : Byte) : Bits3 :=
  v.extractLsb' 4 3

/-- `rsv(v) = v[3:1]`: no decoded meaning (30_encoding.md R66, R67). -/
def rsv (v : Byte) : Bits3 :=
  v.extractLsb' 1 3

/-- `drv(v) = v[7]`: drive routing, stored and not acted on (30_encoding.md R66, R67). -/
def drv (v : Byte) : Bool :=
  v.getLsbD 7

/-- The index of the mode/enable byte (10_state.md R23). -/
def modeIndex : Bits3 :=
  2#3

/-- `CFG_PORT`, whose low three bits are 010 (00_scope.md R5, R6). -/
def cfgPort (p : Config.Params) : Addr :=
  p.cfgPortHigh ++ 0b010#3

/-- The write gate: the full 16-bit address equals `CFG_PORT` (20_memory.md R42). -/
def accepts (p : Config.Params) (a : Addr) : Bool :=
  a == cfgPort p

end Sys2Proof.Machine
end

