-- ==== Sys2Proof/Machine/State.lean ====
section
/-! DEFINITION. The state of the block (spec/10_state.md), the reasons a step can stop, and the state after reset. -/

namespace Sys2Proof.Machine

/-- The state. `cfg`, `att`, `dma`, `live` and `trace` are the spec's (10_state.md R20, R27, R28, R31, R32); `params` are
the adapter's parameters (00_scope.md R5); `ops`, `replies` and `draws` are the model's own (logs 1, 12, 8). -/
structure State where
  /-- `cfg[0..7]`: exactly eight bytes at all times (10_state.md R20). -/
  cfg : Vector Byte 8
  /-- `att`: the engine is mapped at `BASE_ADDR` (10_state.md R27). -/
  att : Bool
  /-- `dma`: the channel most recently set into the engine (10_state.md R28). -/
  dma : Bits3
  /-- `live`: the instance exists (10_state.md R31). -/
  live : Bool
  /-- `trace`: the boundary events issued, oldest first; an observation (10_state.md R32). -/
  trace : List Event
  /-- The parameters of this adapter; no operation writes them (00_scope.md R5, DESIGN CHOICE, safe, log 9). -/
  params : Config.Params
  /-- The words of the host's operations not yet run, the next one first (DESIGN CHOICE, safe, log 1). -/
  ops : List Word
  /-- What the operations handed back, oldest first (DESIGN CHOICE, safe, log 12). -/
  replies : List Reply
  /-- How many times `init_ok` has been drawn (42_lifecycle.md R113, DESIGN CHOICE, safe, log 8). -/
  draws : Nat
deriving DecidableEq, Repr

/-- Reasons for a fault. There is none: the block raises no exception, "all operations are total functions over their
inputs" (60_exceptions.md R130), and INIT's failure is a next state (42_lifecycle.md R113). -/
inductive Fault where
deriving DecidableEq, Repr

/-- Reasons for a refusal. None is a behaviour of the block (60_exceptions.md R132). -/
inductive Refusal where
  /-- Raised by `exec` alone, for an operation whose meaning is not written yet: safe. No arm raises it now. -/
  | notModelled (mnemonic : String)
  /-- Raised by every operation outside its lifecycle precondition, `nomove` (42_lifecycle.md R115): the spec gives the
  operation no step there. Unsafe as to a host that breaks its duty (92_eei_decisions.md D10, log 13). -/
  | nomove
  /-- Raised by `step` for a word whose `KIND` is `110` or `111`, `refuse(reserved_kind)` (30_encoding.md R63): safe. -/
  | reservedKind
  /-- Raised by `step` for a word with a nonzero "must be" field, `refuse(nonzero_unused_field)` (30_encoding.md R63):
  safe. -/
  | nonzeroUnusedField
deriving DecidableEq, Repr

/-- The state after a successful INIT of an adapter with parameters `p`, from power-on: the table of 10_state.md R37.
The three last fields are the model's own (logs 1, 12, 8). -/
def State.resetOf (p : Config.Params) : State where
  cfg := resetCfg
  att := false
  dma := p.defaultDma
  live := true
  trace := initEvents p
  params := p
  ops := []
  replies := [.success]
  draws := 1

/-- The machine after reset: 10_state.md section 7, "Reset values", R37 (DEDUCED, log 4). -/
def State.reset : State :=
  State.resetOf Config.params

/-- Before the first INIT: `live = 0` and an empty trace (10_state.md R31, R32). `cfg`, `att` and `dma` do not exist yet
(70_reset_and_hazards.md R151), and no operation reads them until INIT has written them: they hold zeros here (DESIGN
CHOICE, unsafe, log 5). -/
def State.powerOnOf (p : Config.Params) : State where
  cfg := Vector.replicate 8 0#8
  att := false
  dma := 0#3
  live := false
  trace := []
  params := p
  ops := []
  replies := []
  draws := 0

end Sys2Proof.Machine
end

