-- ==== Sys2Proof/Machine/Ops.lean ====
section
/-! DEFINITION. The named operations over the state (the primitives of spec/00_scope.md R9) and the sequences the
operations share. The block takes no exception and returns from none (60_exceptions.md R130, R135), so there is no
operation for either. -/

namespace Sys2Proof.Machine

/-- `cfg[i]` (00_scope.md R9): every 3-bit index names a byte (10_state.md R20). -/
def State.byteAt (s : State) (i : Bits3) : Byte :=
  s.cfg[i.toNat]'(i.isLt)

/-- `cfg[i] <- v` (00_scope.md R9). -/
def State.setByte (s : State) (i : Bits3) (v : Byte) : State :=
  { s with cfg := s.cfg.set i.toNat v i.isLt }

/-- The read address multiplexer: the byte that address `a` selects (20_memory.md R41). -/
def State.readAddr (s : State) (a : Addr) : Byte :=
  s.byteAt (idx a)

/-- `emit(e)`: append boundary event `e` to the trace (00_scope.md R9). -/
def State.emit (s : State) (e : Event) : State :=
  { s with trace := s.trace ++ [e] }

/-- `return v`: hand `v` back to the host (00_scope.md R9). -/
def State.reply (s : State) (r : Reply) : State :=
  { s with replies := s.replies ++ [r] }

/-- `emit(Detach); att <- 0` (41_write.md R90 step (a), 42_lifecycle.md R112). -/
def State.detachEngine (s : State) : State :=
  { s.emit .detach with att := false }

/-- `emit(SetDma(c)); dma <- c` (41_write.md R90 step (b), 42_lifecycle.md R112). -/
def State.setEngineDma (s : State) (c : Bits3) : State :=
  { s.emit (.setDma c) with dma := c }

/-- `emit(Attach(BASE_ADDR)); att <- 1` (41_write.md R90 step (c), R95). -/
def State.attachEngine (s : State) : State :=
  { s.emit (.attach s.params.baseAddr) with att := true }

/-- The reconfiguration of an accepted write of `v`: steps (a), (b) and, when `v[0] = 1`, (c), in that order
(41_write.md R90, R92). -/
def State.reconfigure (s : State) (v : Byte) : State :=
  if en v then (s.detachEngine.setEngineDma (ch v)).attachEngine
  else s.detachEngine.setEngineDma (ch v)

/-- The body of an accepted WRITE: store at `idx(a)` first, all 8 bits, then reconfigure if the index is 2
(41_write.md R90; the test is always true under 00_scope.md R6 and is kept as the rule keeps it). -/
def State.acceptedWrite (s : State) (a : Addr) (v : Byte) : State :=
  if idx a = modeIndex then (s.setByte (idx a) v).reconfigure v else s.setByte (idx a) v

/-- The body of WRITE: the gate, then the accepted write or nothing (41_write.md R90, R91). -/
def State.writeAddr (s : State) (a : Addr) (v : Byte) : State :=
  if accepts s.params a then s.acceptedWrite a v else s

/-- The body of a successful INIT, in the order of 42_lifecycle.md R112. -/
def State.construct (s : State) : State :=
  let s := s.emit .create
  let s := s.emit (.setIrq s.params.irqLine)
  let s := s.setEngineDma s.params.defaultDma
  let s := s.emit (.setBase s.params.baseAddr)
  let s := s.detachEngine
  let s := { s with cfg := resetCfg }
  let s := { s with live := true }
  s.emit .register

/-- INIT with `init_ok = ok` (42_lifecycle.md R112, R113): on failure no state, no event, only the reply. -/
def State.initWith (s : State) (ok : Bool) : State :=
  if ok then s.construct.reply .success else s.reply .failure

/-- Draw `init_ok` and go on with the counter advanced (42_lifecycle.md R113, log 8). -/
def State.drawnInit (s : State) : State :=
  { s with draws := s.draws + 1 }.initWith (Config.initOk s.draws)

/-- `require live == 1; else nomove`: the step to `t` if the instance exists (42_lifecycle.md R115). -/
def State.requireLive (s t : State) : Host.Outcome State Fault Refusal :=
  if s.live then .next t else .refused .nomove

/-- `require live == 0; else nomove`: the step to `t` if the instance does not exist (42_lifecycle.md R115). -/
def State.requireDead (s t : State) : Host.Outcome State Fault Refusal :=
  if s.live then .refused .nomove else .next t

/-- Take the host's next operation, if one is waiting (20_memory.md R50, log 1). -/
def State.takeOp (s : State) : Option (Word × State) :=
  match s.ops with
  | [] => none
  | w :: rest => some (w, { s with ops := rest })

/-- Put a word where `takeOp` takes it next. -/
def State.pushOp (s : State) (w : Word) : State :=
  { s with ops := w :: s.ops }

/-- The host issues more operations, after those already waiting (20_memory.md R50, log 1). -/
def State.issue (s : State) (ws : List Word) : State :=
  { s with ops := s.ops ++ ws }

end Sys2Proof.Machine
end

