-- ==== Sys2Proof/Machine/Lifecycle.lean ====
section
/-! DEFINITION. RESET, INIT and CLOSE (spec/42_lifecycle.md). -/

namespace Sys2Proof.Machine

/-- RESET (42_lifecycle.md R111): forward the system reset to the engine, nothing else. -/
def execRst (s : State) : Host.Outcome State Fault Refusal :=
  s.requireLive (s.emit .engineReset)

/-- INIT (42_lifecycle.md R112, R113): construct the instance, or fail with no state and no event. -/
def execInit (s : State) : Host.Outcome State Fault Refusal :=
  s.requireDead s.drawnInit

/-- CLOSE (42_lifecycle.md R114): the instance ends; no event, and the latches keep their last values (D18). The bytes,
which cease to exist, keep theirs in State, where nothing reads them (DESIGN CHOICE, unsafe, log 6). -/
def execClose (s : State) : Host.Outcome State Fault Refusal :=
  s.requireLive { s with live := false }

end Sys2Proof.Machine
end

