-- ==== Sys2Proof/Machine/Flags.lean ====
section
/-! DEFINITION. The combinational outputs. The block has no condition flags (spec/10_state.md R36): what other hardware
computes as flags is here the feedback output (R33) and the address-select output (R30). -/

namespace Sys2Proof.Machine

/-- `FB = cfg[2][0]`, from the stored mode byte and not from `att` (10_state.md R33, 42_lifecycle.md R110). -/
def State.feedback (s : State) : Bool :=
  en (s.byteAt modeIndex)

/-- `MAP = att ? some(BASE_ADDR) : none` (10_state.md R30). -/
def State.mapOut (s : State) : Option IoAddr :=
  if s.att then some s.params.baseAddr else none

end Sys2Proof.Machine
end

