-- ==== Sys2Proof/Machine/ReadPath.lean ====
section
/-! DEFINITION. The operations that only read: READ (spec/40_read.md) and FEEDBACK (42_lifecycle.md R110). -/

namespace Sys2Proof.Machine

/-- READ (40_read.md R80): the selected byte, no state written, no event. -/
def execRd (a : Addr) (s : State) : Host.Outcome State Fault Refusal :=
  s.requireLive (s.reply (.byte (s.readAddr a)))

/-- FEEDBACK (42_lifecycle.md R110): bit 0 of the stored mode byte, no state written, no event. -/
def execFb (s : State) : Host.Outcome State Fault Refusal :=
  s.requireLive (s.reply (.bit s.feedback))

end Sys2Proof.Machine
end

