-- ==== Sys2Proof/Machine/WritePath.lean ====
section
/-! DEFINITION. WRITE (spec/41_write.md). -/

namespace Sys2Proof.Machine

/-- WRITE (41_write.md R90): the gate, the store and the reconfiguration. It hands nothing back. -/
def execWr (a : Addr) (v : Byte) (s : State) : Host.Outcome State Fault Refusal :=
  s.requireLive (s.writeAddr a v)

end Sys2Proof.Machine
end

