-- ==== Sys2Proof/Machine/Dispatch.lean ====
section
/-! DEFINITION. One arm per operation: its meaning (spec/30_encoding.md R60). -/

namespace Sys2Proof.Machine

/-- The meaning of an operation. -/
def exec (i : Instr) (s : State) : Host.Outcome State Fault Refusal :=
  match i with
  | .rd a => Sys2Proof.Machine.execRd a s
  | .wr a v => Sys2Proof.Machine.execWr a v s
  | .fb => Sys2Proof.Machine.execFb s
  | .rst => Sys2Proof.Machine.execRst s
  | .init => Sys2Proof.Machine.execInit s
  | .close => Sys2Proof.Machine.execClose s

end Sys2Proof.Machine
end

