-- ==== Sys2Proof/Machine/RunWord.lean ====
section
/-! DEFINITION. What a step does with the word it takes, what it does with none, and how a word is placed for it
(spec/30_encoding.md R63, 60_exceptions.md R132, 70_reset_and_hazards.md R150). -/

namespace Sys2Proof.Machine

/-- The decoder's refusal as the step's (60_exceptions.md R132). -/
def refusalOf : WordRefusal → Refusal
  | .reservedKind => .reservedKind
  | .nonzeroUnusedField => .nonzeroUnusedField

/-- Run a word: what it decodes to, or the decoder's refusal (30_encoding.md R63, DEDUCED, safe, log 15). -/
def runWord (w : Word) (s : State) : Host.Outcome State Fault Refusal :=
  match decode w with
  | .instr i => exec i s
  | .refused r => .refused (refusalOf r)

/-- With no operation issued the block waits and nothing changes (70_reset_and_hazards.md R150, DESIGN CHOICE, safe,
log 2). -/
def State.waitForHost (s : State) : Host.Outcome State Fault Refusal :=
  .next s

/-- The word given as a number, issued as the host's next operation (DESIGN CHOICE, safe, logs 3 and 14). -/
def State.placeWord (s : State) (nbits w : Nat) : State :=
  s.pushOp (BitVec.ofNat 27 (w % 2 ^ nbits))

end Sys2Proof.Machine
end

