-- ==== Sys2Proof/Machine/Step.lean ====
section
/-! DEFINITION. One step: one host operation, one atomic transition (spec/00_scope.md R10, 20_memory.md R49). -/

namespace Sys2Proof.Machine

/-- One step: the host's next operation is taken and run; with none issued the block waits (logs 1 and 2). -/
def step (s : State) : Host.Outcome State Fault Refusal :=
  match s.takeOp with
  | none => s.waitForHost
  | some (w, t) => runWord w t

/-- `s` with the word given as a number issued as the host's next operation (log 3). -/
def State.withFetchWord (s : State) (nbits w : Nat) : State :=
  s.placeWord nbits w

end Sys2Proof.Machine
end

