-- ==== Sys2Proof/Machine/Assembler.lean ====
section
/-! DEFINITION. The pseudo-operations (spec/30_encoding.md R70) and the textual notation (R69). Both are the spec's own
choice (92_eei_decisions.md D8) and say nothing about hardware. Text is a list of characters. Where R69 leaves the
notation open (blanks, ends of lines, number of digits, letter case, names) log 17 says what is taken. -/

namespace Sys2Proof.Machine

/-- The one WRITE a pseudo-operation stands for (30_encoding.md R70). -/
def expand (p : Config.Params) : Pseudo → Instr
  | .cfgwr v => .wr (cfgPort p) v
  | .enable c => .wr (cfgPort p) (c.setWidth 8 <<< 4 ||| 0x01#8)
  | .disable c => .wr (cfgPort p) (c.setWidth 8 <<< 4)

/-! ### Printing -/

/-- A hexadecimal digit, capital letters as the spec writes them. -/
def hexDigit (d : BitVec 4) : Char :=
  if d.toNat < 10 then Char.ofNat (48 + d.toNat) else Char.ofNat (55 + d.toNat)

/-- A byte in hex with `0x` (30_encoding.md R69), always two digits (DESIGN CHOICE, safe, log 17). -/
def byteText (v : Byte) : List Char :=
  ['0', 'x', hexDigit (v.extractLsb' 4 4), hexDigit (v.extractLsb' 0 4)]

/-- An address in hex with `0x` (30_encoding.md R69), always four digits (DESIGN CHOICE, safe, log 17). -/
def addrText (a : Addr) : List Char :=
  ['0', 'x', hexDigit (a.extractLsb' 12 4), hexDigit (a.extractLsb' 8 4), hexDigit (a.extractLsb' 4 4),
    hexDigit (a.extractLsb' 0 4)]

/-- The text of an operation (30_encoding.md R69). -/
def instrText : Instr → List Char
  | .rd a => ['R', 'D', ' '] ++ addrText a
  | .wr a v => ['W', 'R', ' '] ++ addrText a ++ [',', ' '] ++ byteText v
  | .fb => ['F', 'B']
  | .rst => ['R', 'S', 'T']
  | .init => ['I', 'N', 'I', 'T']
  | .close => ['C', 'L', 'O', 'S', 'E']

/-! ### Reading -/

/-- The value of a hexadecimal digit, a letter of either case (DESIGN CHOICE, safe, log 17). -/
def hexValue (c : Char) : Option Nat :=
  let n := c.toNat
  if 48 ≤ n ∧ n ≤ 57 then some (n - 48)
  else if 65 ≤ n ∧ n ≤ 70 then some (n - 55)
  else if 97 ≤ n ∧ n ≤ 102 then some (n - 87)
  else none

/-- The number that hexadecimal digits spell, after a prefix worth `acc`. -/
def hexNumber (acc : Nat) : List Char → Option Nat
  | [] => some acc
  | c :: cs =>
    match hexValue c with
    | none => none
    | some d => hexNumber (acc * 16 + d) cs

/-- A number below `2 ^ bits`, in hex with `0x` (30_encoding.md R69) and any number of digits but none (DESIGN CHOICE,
safe, log 17). -/
def parseNumber (bits : Nat) (t : List Char) : Option (BitVec bits) :=
  match t with
  | '0' :: 'x' :: c :: cs =>
    match hexNumber 0 (c :: cs) with
    | some n => if n < 2 ^ bits then some (BitVec.ofNat bits n) else none
    | none => none
  | _ => none

/-- A channel of a pseudo-operation: a number, or one digit 0 to 7 (30_encoding.md R70), as 95_test_vectors.md V-PSEUDO
writes it (log 17). -/
def parseChannel (t : List Char) : Option Bits3 :=
  match t with
  | [c] =>
    match hexValue c with
    | some n => if n < 8 then some (BitVec.ofNat 3 n) else none
    | none => none
  | _ => parseNumber 3 t

/-- An address: a number (30_encoding.md R69), or the name `CFG_PORT` as R70 writes it (log 17). -/
def parseAddr (p : Config.Params) (t : List Char) : Option Addr :=
  if t = ['C', 'F', 'G', '_', 'P', 'O', 'R', 'T'] then some (cfgPort p) else parseNumber 16 t

/-- Finish the token read so far. -/
def flushToken (token : List Char) (rest : List (List Char)) : List (List Char) :=
  if token = [] then rest else token :: rest

/-- Cut a line into tokens: `;` starts a comment (30_encoding.md R69), which lasts to the end of the line; a comma is a
token. Blanks part tokens: a space, a tab and a carriage return, each anywhere in the line, so that a line that ends in
carriage return and newline reads as one that ends in newline (R69 does not say; DESIGN CHOICE, safe, log 17). -/
def tokensFrom (token : List Char) : List Char → List (List Char)
  | [] => flushToken token []
  | c :: cs =>
    if c = ' ' ∨ c = '\t' ∨ c = '\r' then flushToken token (tokensFrom [] cs)
    else if c = ',' then flushToken token ([','] :: tokensFrom [] cs)
    else if c = ';' then flushToken token []
    else tokensFrom (token ++ [c]) cs

/-- An operation without operands. -/
def parseBare (m : List Char) : Option Instr :=
  if m = ['F', 'B'] then some .fb
  else if m = ['R', 'S', 'T'] then some .rst
  else if m = ['I', 'N', 'I', 'T'] then some .init
  else if m = ['C', 'L', 'O', 'S', 'E'] then some .close
  else none

/-- An operation or pseudo-operation with one operand. -/
def parseUnary (p : Config.Params) (m x : List Char) : Option Instr :=
  if m = ['R', 'D'] then (parseAddr p x).map .rd
  else if m = ['C', 'F', 'G', 'W', 'R'] then (parseNumber 8 x).map fun v => expand p (.cfgwr v)
  else if m = ['E', 'N', 'A', 'B', 'L', 'E'] then (parseChannel x).map fun c => expand p (.enable c)
  else if m = ['D', 'I', 'S', 'A', 'B', 'L', 'E'] then (parseChannel x).map fun c => expand p (.disable c)
  else none

/-- The operation of a line's tokens, `some []` for a line with none. -/
def parseTokens (p : Config.Params) : List (List Char) → Option (List Instr)
  | [] => some []
  | [m] => (parseBare m).map fun i => [i]
  | [m, x] => (parseUnary p m x).map fun i => [i]
  | [m, x, comma, y] =>
    if m = ['W', 'R'] ∧ comma = [','] then
      match parseAddr p x, parseNumber 8 y with
      | some a, some v => some [.wr a v]
      | _, _ => none
    else none
  | _ => none

/-- The operation of one line of text, `some []` for a blank or comment line (DESIGN CHOICE, safe, log 17), none for what
R69 does not define. -/
def parseLine (p : Config.Params) (line : List Char) : Option (List Instr) :=
  parseTokens p (tokensFrom [] line)

/-- The operations of a program, one line each (30_encoding.md R69, "One operation per line"). A line ends at a newline
character, and the last one at the end of the text (R69 does not say how a line ends; DESIGN CHOICE, safe, log 17).
`line` is what of the current line has been read. -/
def parseProgramFrom (p : Config.Params) (line : List Char) : List Char → Option (List Instr)
  | [] => parseLine p line
  | c :: cs =>
    if c = '\n' then
      match parseLine p line, parseProgramFrom p [] cs with
      | some is, some js => some (is ++ js)
      | _, _ => none
    else parseProgramFrom p (line ++ [c]) cs

/-- Assemble a program: the words of its operations in order (30_encoding.md R69). -/
def assemble (p : Config.Params) (text : List Char) : Option (List Word) :=
  (parseProgramFrom p [] text).map fun is => is.map encode

end Sys2Proof.Machine
end

