-- ==== Sys2Proof/Safety.lean ====
section
/-! DEFINITION. What counts as a safe state and a safe run of the block: the whole-machine rules of the spec in the terms
the statements use. -/

namespace Sys2Proof.Safety

open Sys2Proof.Machine

/-! ### Rules about one state -/

/-- 10_state.md R34: while the instance is live, `att = cfg[2][0]`. -/
def AttachAgrees (s : State) : Prop :=
  s.live = true → s.att = en (s.byteAt modeIndex)

/-- 10_state.md R21, R22, R24, R25: while the instance is live, every byte but `cfg[2]` holds the value INIT gave it. -/
def FixedBytesHold (s : State) : Prop :=
  s.live = true → ∀ k : Bits3, k ≠ modeIndex → s.byteAt k = resetCfg[k.toNat]'(k.isLt)

/-- Whether a WRITE has been accepted since the last INIT, read off the trace: INIT's last event is `Register`, and a
`SetDma` after it is a WRITE's (10_state.md R32, R35). -/
def writtenSinceInit (t : List Event) : Bool :=
  t.foldl (fun b e =>
    match e with
    | .register => false
    | .setDma _ => true
    | _ => b) false

/-- 10_state.md R35: the channel is that of the mode byte once a WRITE has been accepted, and `DEFAULT_DMA` before. -/
def ChannelAgrees (s : State) : Prop :=
  s.live = true →
    s.dma = if writtenSinceInit s.trace then ch (s.byteAt modeIndex) else s.params.defaultDma

/-- What the trace tells of the engine: where the last `Attach` or `Detach` left it mapped (60_exceptions.md R137), and
the channel of the last `SetDma`. -/
structure EngineView where
  mapped : Option IoAddr
  channel : Option Bits3
deriving DecidableEq, Repr

/-- One event's effect on the view (60_exceptions.md R137). -/
def EngineView.after (v : EngineView) : Event → EngineView
  | .attach a => { v with mapped := some a }
  | .detach => { v with mapped := none }
  | .setDma c => { v with channel := some c }
  | .create => v
  | .setIrq _ => v
  | .setBase _ => v
  | .engineReset => v
  | .register => v

/-- The view that a whole trace leaves. -/
def engineView (t : List Event) : EngineView :=
  t.foldl EngineView.after ⟨none, none⟩

/-- The outputs are what the engine was told: the trace leaves the engine mapped as `MAP` says and on the channel `dma`
(10_state.md R27, R28, R30, 60_exceptions.md R137). Before the first INIT nothing has been told. -/
def OutputsMatchTrace (s : State) : Prop :=
  (s.live = true → s.trace ≠ []) ∧
    (s.trace ≠ [] → engineView s.trace = ⟨s.mapOut, some s.dma⟩)

/-- 70_reset_and_hazards.md R153 on a trace: a `SetDma` follows immediately on a `Detach` (a WRITE's) or on a `SetIrq`
(INIT's), and an `Attach` is of `BASE_ADDR` and follows immediately on a `Detach` and a `SetDma`. -/
def TraceOrdered (base : IoAddr) (t : List Event) : Prop :=
  (∀ before after c, t = before ++ Event.setDma c :: after →
      before.getLast? = some .detach ∨ ∃ n, before.getLast? = some (.setIrq n)) ∧
    ∀ before after x, t = before ++ Event.attach x :: after →
      x = base ∧ ∃ earlier c, before = earlier ++ [.detach, .setDma c]

/-- The trace of a state is ordered. -/
def TraceSafe (s : State) : Prop :=
  TraceOrdered s.params.baseAddr s.trace

/-! ### Operations of a live instance, read off the spec alone -/

/-- An operation that a live instance runs and stays live after: READ, WRITE, FEEDBACK, RESET. -/
def staysLive : Instr → Bool
  | .rd _ => true
  | .wr _ _ => true
  | .fb => true
  | .rst => true
  | .init => false
  | .close => false

/-- 42_lifecycle.md R115: INIT needs `live = 0` and every other operation `live = 1`. -/
def inLifecycle (i : Instr) (s : State) : Prop :=
  if i = .init then s.live = false else s.live = true

/-- The mode byte after an operation of a live instance: the value of an accepted WRITE, else as before. -/
def modeAfter (p : Config.Params) (m : Byte) : Instr → Byte
  | .wr a v => if a = cfgPort p then v else m
  | .rd _ => m
  | .fb => m
  | .rst => m
  | .init => m
  | .close => m

/-- The mode byte after a sequence: the value of its last accepted WRITE, or `m` if it has none (20_memory.md R50). -/
def lastAccepted (p : Config.Params) (m : Byte) (is : List Instr) : Byte :=
  is.foldl (modeAfter p) m

/-- What the host must be told by a sequence of operations of a live instance whose mode byte is `m` and whose other
bytes are those of INIT: READ answers the mode byte as last written or a fixed byte, FEEDBACK bit 0 of the mode byte
(20_memory.md R50, R54, 10_state.md R33). -/
def answers (p : Config.Params) (m : Byte) : List Instr → List Reply
  | [] => []
  | .rd a :: is =>
    .byte (if idx a = modeIndex then m else resetCfg[(idx a).toNat]'((idx a).isLt)) :: answers p m is
  | .fb :: is => .bit (en m) :: answers p m is
  | .wr a v :: is => answers p (if a = cfgPort p then v else m) is
  | .rst :: is => answers p m is
  | .init :: is => answers p m is
  | .close :: is => answers p m is

/-- The events of an accepted WRITE of `v`, in the order of 41_write.md R92. -/
def writeEvents (p : Config.Params) (v : Byte) : List Event :=
  if en v then [.detach, .setDma (ch v), .attach p.baseAddr] else [.detach, .setDma (ch v)]

/-- The events of an operation of a live instance (60_exceptions.md R138). -/
def eventsOf (p : Config.Params) : Instr → List Event
  | .wr a v => if a = cfgPort p then writeEvents p v else []
  | .rst => [.engineReset]
  | .rd _ => []
  | .fb => []
  | .init => []
  | .close => []

end Sys2Proof.Safety
end

