-- ==== Sys2Proof/Certificates/Slice0/Obligations.lean ====
section
/-! DEFINITION. The statements for the provers, each from the rules of spec/. Where one rests on a decision or inference
that the spec or the model marks as its own, its docstring names it. Throughout, the fields `ops`, `replies` and `draws`
are the model's own form of the host's calls, their results and INIT's draw (logs 1, 12, 8), and `params` that of the
adapter's parameters (log 9). -/

open Sys2Proof Sys2Proof.Machine Sys2Proof.Safety

/-! ### Encoding -/

/-- Decode and encode agree: every operation, with every operand, is what its word decodes to (30_encoding.md section 2;
the word is the spec's own choice, 92_eei_decisions.md D7). -/
def Obligations.DecodeUndoesEncode : Prop :=
  ∀ i : Instr, decode (encode i) = .instr i

/-- Each operation has one word: a word that decodes is the word of what it decodes to (30_encoding.md section 2; D7). -/
def Obligations.EncodeUndoesDecode : Prop :=
  ∀ (w : Word) (i : Instr), decode w = .instr i → encode i = w

/-- The decoder reads exactly the words of spec/opcode_table.json: what it reads matches its row, and a word that matches
a row is read as that row's operation, so that no word matches two rows (D7). -/
def Obligations.DecoderFollowsOpcodeTable : Prop :=
  (∀ (w : Word) (i : Instr), decode w = .instr i →
      opcodeRow i ∈ opcodeTable ∧ w &&& (opcodeRow i).mask = (opcodeRow i).bits) ∧
    ∀ (w : Word), ∀ r ∈ opcodeTable, w &&& r.mask = r.bits → ∃ i, decode w = .instr i ∧ opcodeRow i = r

/-- The decoder refuses by name exactly the words that 30_encoding.md R63 refuses: a kind of 6 or 7, and a nonzero field
that must be zero (the spec's own choice, D7 and D19). -/
def Obligations.DecoderRefusesByName : Prop :=
  ∀ w : Word,
    (decode w = .refused .reservedKind ↔ 6 ≤ w.toNat / 2 ^ 24) ∧
      (decode w = .refused .nonzeroUnusedField ↔
        (w.toNat / 2 ^ 24 ≠ 1 ∧ w.toNat / 2 ^ 24 < 6 ∧ w.toNat % 2 ^ 8 ≠ 0) ∨
          (2 ≤ w.toNat / 2 ^ 24 ∧ w.toNat / 2 ^ 24 < 6 ∧ w.toNat / 2 ^ 8 % 2 ^ 16 ≠ 0))

/-- Words written out in 95_test_vectors.md decode to the operations it gives them (D7). -/
def Obligations.WordsOfTheTestVectorsDecode : Prop :=
  decode 0x0010200#27 = .instr (.rd 0x0102#16) ∧ decode 0x0FFFF00#27 = .instr (.rd 0xFFFF#16) ∧
    decode 0x1010231#27 = .instr (.wr 0x0102#16 0x31#8) ∧ decode 0x1110201#27 = .instr (.wr 0x1102#16 0x01#8) ∧
    decode 0x2000000#27 = .instr .fb ∧ decode 0x3000000#27 = .instr .rst ∧
    decode 0x4000000#27 = .instr .init ∧ decode 0x5000000#27 = .instr .close ∧
    decode 0x6000000#27 = .refused .reservedKind ∧ decode 0x3000100#27 = .refused .nonzeroUnusedField

/-- The fields of a mode byte are the bits that 30_encoding.md R66 names, and together they are the whole byte; the index
of an address is its value modulo 8 (R65). The bit numbering is 00_scope.md R7's (D1). -/
def Obligations.ModeByteFieldsAreItsBits : Prop :=
  (∀ v : Byte, (en v = true ↔ v.toNat % 2 = 1) ∧ (rsv v).toNat = v.toNat / 2 % 8 ∧
      (ch v).toNat = v.toNat / 16 % 8 ∧ (drv v = true ↔ 128 ≤ v.toNat) ∧
      v.toNat = 128 * (drv v).toNat + 16 * (ch v).toNat + 2 * (rsv v).toNat + (en v).toNat) ∧
    ∀ a : Addr, (idx a).toNat = a.toNat % 8

/-- The text that 30_encoding.md R69 gives an operation assembles to that operation (the spec's own choice, D8; the
form of numbers is log 17's). -/
def Obligations.AssemblyTextRoundTrip : Prop :=
  ∀ (p : Config.Params) (i : Instr), parseLine p (instrText i) = some [i]

/-! ### The step -/

/-- A step takes the host's next operation and runs what its word decodes to (logs 1 and 3). -/
def Obligations.StepRunsTheDecodedOperation : Prop :=
  ∀ (s : State) (w : Word) (rest : List Word) (i : Instr), s.ops = w :: rest → decode w = .instr i →
    step s = exec i { s with ops := rest }

/-- A step refuses a word that the decoder refuses, under the same name (30_encoding.md R63; D19, log 15). -/
def Obligations.StepRefusesUndefinedWords : Prop :=
  ∀ (s : State) (w : Word) (rest : List Word), s.ops = w :: rest →
    (decode w = .refused .reservedKind → step s = .refused .reservedKind) ∧
      (decode w = .refused .nonzeroUnusedField → step s = .refused .nonzeroUnusedField)

/-- With no operation issued the block waits: the step changes nothing (the model's choice, log 2, after
70_reset_and_hazards.md R150's "After INIT the block waits for host operations"). -/
def Obligations.StepWaitsForTheHost : Prop :=
  ∀ s : State, s.ops = [] → step s = .next s

/-- A word given as a number is run by the very next step (the model's choice, logs 3 and 14). -/
def Obligations.PlacedWordRunsNext : Prop :=
  ∀ (s : State) (nbits w : Nat) (i : Instr), decodeTableWord nbits w = some i →
    step (s.withFetchWord nbits w) = exec i s

/-- What a step can answer, and when: a next state, or one of three refusals by name. It refuses only the word it takes:
as reservedKind or nonzeroUnusedField where the decoder does (30_encoding.md section 2, D19), as nomove where the
operation is outside its lifecycle (D10, log 13). No refusal is for want of a meaning, and none is an exception of the
block (60_exceptions.md section 1). -/
def Obligations.StepAnswersNextOrANamedRefusal : Prop :=
  ∀ s : State, (∃ t, step s = .next t) ∨
    ∃ w rest, s.ops = w :: rest ∧
      ((decode w = .refused .reservedKind ∧ step s = .refused .reservedKind) ∨
        (decode w = .refused .nonzeroUnusedField ∧ step s = .refused .nonzeroUnusedField) ∨
        ∃ i, decode w = .instr i ∧ ¬ inLifecycle i { s with ops := rest } ∧ step s = .refused .nomove)

/-! ### READ -/

/-- 20_memory.md R41: READ answers the byte that the low three address bits select, whatever the upper bits. -/
def Obligations.ReadAnswersTheSelectedByte : Prop :=
  (∀ (s : State) (a : Addr), s.live = true →
      exec (.rd a) s =
        .next { s with replies := s.replies ++ [.byte (s.cfg[a.toNat % 8]'(Nat.mod_lt _ (Nat.succ_pos 7)))] }) ∧
    ∀ (s : State) (a b : Addr), a.toNat % 8 = b.toNat % 8 → exec (.rd a) s = exec (.rd b) s

/-- 40_read.md R81: two live states with the same eight bytes answer the same byte to addresses with the same low three
bits. -/
def Obligations.ReadDependsOnIndexAndBytesAlone : Prop :=
  ∀ (s t : State) (a b : Addr), s.live = true → t.live = true → s.cfg = t.cfg → a.toNat % 8 = b.toNat % 8 →
    ∃ v : Byte, exec (.rd a) s = .next { s with replies := s.replies ++ [.byte v] } ∧
      exec (.rd b) t = .next { t with replies := t.replies ++ [.byte v] }

/-- 20_memory.md R47: any number of READs, run one after another, each answer the byte that the state held before them
all, and leave everything but the replies as it was. -/
def Obligations.ReadsHaveNoSideEffects : Prop :=
  ∀ (s : State) (as : List Addr), s.live = true →
    core.run as.length { s with ops := as.map (fun a => encode (.rd a)) ++ s.ops } =
      .next { s with replies := s.replies ++ as.map fun a => .byte (s.cfg[a.toNat % 8]'(Nat.mod_lt _ (Nat.succ_pos 7))) }

/-! ### WRITE -/

/-- 20_memory.md R42: WRITE is accepted iff the full address is `CFG_PORT`. Accepted, it stores the value at index 2,
which is the port's index, and reconfigures the engine; rejected, it changes nothing. -/
def Obligations.WriteIsGatedByTheFullAddress : Prop :=
  (∀ (s : State) (a : Addr) (v : Byte), s.live = true →
      exec (.wr a v) s =
        .next (if a = cfgPort s.params then
          { s with
            cfg := s.cfg.set 2 v
            att := v.getLsbD 0
            dma := v.extractLsb' 4 3
            trace := s.trace ++ .detach :: .setDma (v.extractLsb' 4 3) ::
              (if v.getLsbD 0 then [.attach s.params.baseAddr] else []) }
        else s)) ∧
    ∀ p : Config.Params, (cfgPort p).toNat % 8 = 2

/-- 41_write.md R91: an ignored WRITE leaves the whole state unchanged. -/
def Obligations.IgnoredWriteChangesNothing : Prop :=
  ∀ (s : State) (a : Addr) (v : Byte), s.live = true → a ≠ cfgPort s.params → exec (.wr a v) s = .next s

/-- 41_write.md R92: an accepted WRITE issues Detach, then SetDma, then, if it attaches, Attach, in that order and
nothing else. -/
def Obligations.ReconfigurationOrder : Prop :=
  ∀ (s : State) (v : Byte), s.live = true →
    ∃ t, exec (.wr (cfgPort s.params) v) s = .next t ∧
      (v.getLsbD 0 = false → t.trace = s.trace ++ [.detach, .setDma (v.extractLsb' 4 3)]) ∧
      (v.getLsbD 0 = true →
        t.trace = s.trace ++ [.detach, .setDma (v.extractLsb' 4 3), .attach s.params.baseAddr])

/-- 41_write.md R93: an accepted WRITE derives the attachment and the channel from its value alone, whatever was held
before, and always issues Detach and SetDma. The two states are of one adapter, so that the port and the base are the
same. -/
def Obligations.ReconfigurationIsLevelTriggered : Prop :=
  ∀ (s₁ s₂ : State) (v : Byte), s₁.live = true → s₂.live = true → s₁.params = s₂.params →
    ∃ t₁ t₂ more,
      exec (.wr (cfgPort s₁.params) v) s₁ = .next t₁ ∧ exec (.wr (cfgPort s₂.params) v) s₂ = .next t₂ ∧
        t₁.att = t₂.att ∧ t₁.dma = t₂.dma ∧
        t₁.trace = s₁.trace ++ .detach :: .setDma (v.extractLsb' 4 3) :: more ∧
        t₂.trace = s₂.trace ++ .detach :: .setDma (v.extractLsb' 4 3) :: more

/-- 41_write.md R94: every value is accepted and stored verbatim, whatever the other bytes hold; nothing is validated. -/
def Obligations.EveryValueIsAccepted : Prop :=
  ∀ (s : State) (v : Byte), s.live = true →
    ∃ t, exec (.wr (cfgPort s.params) v) s = .next t ∧ t.cfg[2] = v ∧ t.att = v.getLsbD 0 ∧
      t.dma = v.extractLsb' 4 3

/-- 41_write.md R95: WRITE changes neither `IRQ_LINE` nor `BASE_ADDR`, and `Attach` always carries `BASE_ADDR`. -/
def Obligations.WriteKeepsIrqLineAndBase : Prop :=
  ∀ (s t : State) (a : Addr) (v : Byte), exec (.wr a v) s = .next t →
    t.params.irqLine = s.params.irqLine ∧ t.params.baseAddr = s.params.baseAddr ∧
      ∃ new, t.trace = s.trace ++ new ∧ (∀ x, Event.attach x ∈ new → x = s.params.baseAddr) ∧
        (∀ n, Event.setIrq n ∉ new) ∧ ∀ x, Event.setBase x ∉ new

/-- 20_memory.md R48: a WRITE elsewhere has no side effect. An accepted WRITE writes `cfg[2]`, `att` and `dma` and emits
two or three events; the same WRITE again leaves these three as they are and emits the same events again. -/
def Obligations.WriteIsIdempotentButInTheTrace : Prop :=
  ∀ (s : State) (a : Addr) (v : Byte), s.live = true →
    (a ≠ cfgPort s.params → exec (.wr a v) s = .next s) ∧
      (a = cfgPort s.params →
        ∃ t u new, exec (.wr a v) s = .next t ∧ exec (.wr a v) t = .next u ∧
          t.cfg[2] = v ∧ t.att = v.getLsbD 0 ∧ t.dma = v.extractLsb' 4 3 ∧
          (new.length = 2 ∨ new.length = 3) ∧ t.trace = s.trace ++ new ∧
          u.cfg = t.cfg ∧ u.att = t.att ∧ u.dma = t.dma ∧ u.trace = t.trace ++ new)

/-- Bits 3:1 and bit 7 of the mode byte have no effect: two values that agree on bits 0 and 6:4 leave the same outputs
and events, though each is stored (30_encoding.md section 4). -/
def Obligations.ReservedAndRoutingBitsHaveNoEffect : Prop :=
  ∀ (s : State) (v w : Byte), s.live = true → v.getLsbD 0 = w.getLsbD 0 → v.extractLsb' 4 3 = w.extractLsb' 4 3 →
    ∃ t u, exec (.wr (cfgPort s.params) v) s = .next t ∧ exec (.wr (cfgPort s.params) w) s = .next u ∧
      t.att = u.att ∧ t.dma = u.dma ∧ t.trace = u.trace ∧ t.mapOut = u.mapOut ∧ t.feedback = u.feedback ∧
      t.cfg[2] = v ∧ u.cfg[2] = w

/-- There is no latency between operations: a READ or FEEDBACK right after an accepted WRITE sees the new mode byte
(70_reset_and_hazards.md section 3). -/
def Obligations.ReadAfterWriteSeesTheWrite : Prop :=
  ∀ (s t : State) (a : Addr) (v : Byte), exec (.wr (cfgPort s.params) v) s = .next t → a.toNat % 8 = 2 →
    exec (.rd a) t = .next { t with replies := t.replies ++ [.byte v] } ∧
      exec .fb t = .next { t with replies := t.replies ++ [.bit (v.getLsbD 0)] }

/-- The pseudo-operations are one WRITE of the mode byte each: ENABLE attaches on its channel, DISABLE detaches and
latches it, CFGWR writes the byte (30_encoding.md section 5; the spec's own choice, D8). -/
def Obligations.PseudoOperationsReconfigure : Prop :=
  ∀ (s : State) (c : Bits3) (v : Byte), s.live = true →
    exec (expand s.params (.enable c)) s =
        .next { s with
          cfg := s.cfg.set 2 (BitVec.ofNat 8 (16 * c.toNat + 1))
          att := true
          dma := c
          trace := s.trace ++ [.detach, .setDma c, .attach s.params.baseAddr] } ∧
      exec (expand s.params (.disable c)) s =
        .next { s with
          cfg := s.cfg.set 2 (BitVec.ofNat 8 (16 * c.toNat))
          att := false
          dma := c
          trace := s.trace ++ [.detach, .setDma c] } ∧
      expand s.params (.cfgwr v) = .wr (cfgPort s.params) v

/-! ### FEEDBACK, RESET, INIT, CLOSE -/

/-- 10_state.md R33: FEEDBACK answers bit 0 of the stored mode byte, in every live state. -/
def Obligations.FeedbackAnswersBitZeroOfTheModeByte : Prop :=
  ∀ s : State, s.live = true →
    exec .fb s = .next { s with replies := s.replies ++ [.bit ((s.cfg[2]).getLsbD 0)] }

/-- While `att` agrees with the mode byte, FEEDBACK reports the attachment (10_state.md section 5; R34 is marked as the
spec's inference). -/
def Obligations.FeedbackReportsTheAttachment : Prop :=
  ∀ s : State, s.live = true → AttachAgrees s → exec .fb s = .next { s with replies := s.replies ++ [.bit s.att] }

/-- RESET forwards the system reset to the engine and keeps everything else (42_lifecycle.md RESET; that it keeps `dma`
is the spec's own decision, D12, log 20). -/
def Obligations.ResetOnlyForwardsToTheEngine : Prop :=
  ∀ s : State, s.live = true → exec .rst s = .next { s with trace := s.trace ++ [.engineReset] }

/-- INIT completes wherever there is no instance, for either value of the freely drawn `init_ok`: on success with every
element at its reset value and the six events, on failure with nothing but the failure handed back (42_lifecycle.md INIT;
the point of failure is D11, the order of the events D17, log 18, the literals D20, log 19, the draw log 8, the replies
log 12; that what does not exist keeps its value in State on failure is the model's choice, log 6). -/
def Obligations.InitConstructsOrFails : Prop :=
  ∀ s : State, s.live = false →
    exec .init s =
      .next (if Config.initOk s.draws then
        { s with
          cfg := #v[0xFA#8, 0xDF#8, 0x3E#8, 0x04#8, 0x04#8, 0x00#8, 0x00#8, 0x00#8]
          att := false
          dma := s.params.defaultDma
          live := true
          trace := s.trace ++ [.create, .setIrq s.params.irqLine, .setDma s.params.defaultDma,
            .setBase s.params.baseAddr, .detach, .register]
          replies := s.replies ++ [.success]
          draws := s.draws + 1 }
      else { s with replies := s.replies ++ [.failure], draws := s.draws + 1 })

/-- INIT from power-on reaches the model's reset state, or fails and leaves no instance, whatever the draw counter (that
State.reset is the state after INIT is the model's reading, log 4; power-on is log 5, and its keeping its values when INIT
fails log 6; a failure is D11, the bytes D20, log 19, the order of the events D17, log 18). -/
def Obligations.InitFromPowerOnReachesReset : Prop :=
  ∀ (p : Config.Params) (n : Nat),
    exec .init { State.powerOnOf p with draws := n } =
      .next (if Config.initOk n then { State.resetOf p with draws := n + 1 }
        else { State.powerOnOf p with replies := [.failure], draws := n + 1 })

/-- The reset state holds the values of the table of 10_state.md section 7 (the byte literals are the spec's decision
D20, log 19; the order of the events D17, log 18; reset as the state after INIT log 4). -/
def Obligations.ResetHoldsTheStatedValues : Prop :=
  State.reset.cfg = #v[0xFA#8, 0xDF#8, 0x3E#8, 0x04#8, 0x04#8, 0x00#8, 0x00#8, 0x00#8] ∧
    State.reset.att = false ∧ State.reset.dma = Config.defaultDma ∧ State.reset.live = true ∧
    State.reset.mapOut = none ∧ State.reset.feedback = false ∧
    State.reset.trace = [.create, .setIrq Config.irqLine, .setDma Config.defaultDma, .setBase Config.baseAddr,
      .detach, .register]

/-- CLOSE ends the instance and nothing else: no event, the latches and `MAP` keep their values, so an attached engine
stays mapped (42_lifecycle.md CLOSE). The frozen latches and `MAP` are the spec's decision D18. That the eight bytes keep
their values in State, though the instance's storage ceases to exist, is the model's own choice, log 6. -/
def Obligations.CloseEndsTheInstance : Prop :=
  ∀ s : State, s.live = true →
    exec .close s = .next { s with live := false } ∧
      (s.att = true → ∃ t, exec .close s = .next t ∧ t.mapOut = some s.params.baseAddr ∧ t.trace = s.trace)

/-- INIT after CLOSE, when it succeeds, makes a fresh instance, whatever the closed one had stored; the trace goes on
(the spec's decision D10). The bytes are D20, log 19, the order of the events D17, log 18. -/
def Obligations.InitAfterCloseIsFresh : Prop :=
  ∀ s t : State, exec .close s = .next t →
    ∃ u, exec .init t = .next u ∧
      (u.live = true → u = { State.resetOf s.params with
        trace := s.trace ++ (State.resetOf s.params).trace
        ops := s.ops
        replies := s.replies ++ [.success]
        draws := s.draws + 1 })

/-- An operation has a step exactly in its lifecycle state, and is refused as `nomove` elsewhere (42_lifecycle.md R115,
which is the spec's decision D10, log 13). -/
def Obligations.OperationsStepExactlyInTheirLifecycle : Prop :=
  ∀ (i : Instr) (s : State),
    (inLifecycle i s → ∃ t, exec i s = .next t) ∧ (¬ inLifecycle i s → exec i s = .refused .nomove)

/-! ### What each operation changes, and what it leaves -/

/-- The frame of READ (20_memory.md section 3, 40_read.md) and of FEEDBACK (42_lifecycle.md FEEDBACK): only the replies
grow, by one. That a result is handed back by a list of replies is the model's choice, log 12. -/
def Obligations.FrameOfReadAndFeedback : Prop :=
  ∀ (s t : State) (i : Instr), ((∃ a, i = .rd a) ∨ i = .fb) → exec i s = .next t →
    t.cfg = s.cfg ∧ (∀ a, t.readAddr a = s.readAddr a) ∧ t.att = s.att ∧ t.dma = s.dma ∧ t.live = s.live ∧
      t.trace = s.trace ∧ t.params = s.params ∧ t.ops = s.ops ∧ t.draws = s.draws ∧
      ∃ r, t.replies = s.replies ++ [r]

/-- The frame of WRITE (20_memory.md section 3, 41_write.md): a byte that the accepted address does not select reads as
before; the latches and the trace stay when the gate rejects the address; nothing else ever changes. -/
def Obligations.FrameOfWrite : Prop :=
  ∀ (s t : State) (a : Addr) (v : Byte), exec (.wr a v) s = .next t →
    (∀ b, ¬ (accepts s.params a = true ∧ idx b = idx a) → t.readAddr b = s.readAddr b) ∧
      (accepts s.params a = false → t.att = s.att ∧ t.dma = s.dma ∧ t.trace = s.trace) ∧
      t.live = s.live ∧ t.params = s.params ∧ t.ops = s.ops ∧ t.replies = s.replies ∧ t.draws = s.draws

/-- The frames of RESET (only the trace), CLOSE (only `live`) and INIT (the parameters and the waiting operations stay,
and a failed INIT changes nothing but the reply and the draw; 42_lifecycle.md RESET, CLOSE, INIT). The spec's decisions
here are D12 for RESET, log 20, D18 for `att`, `dma` and `MAP` after CLOSE, and D11 for a failed INIT. That the bytes of
an instance which no longer exists keep their values, in the clauses of CLOSE and of a failed INIT, is the model's own
choice, log 6; the reply and the draw counter are logs 12 and 8. -/
def Obligations.FrameOfResetCloseAndInit : Prop :=
  ∀ s t : State,
    (exec .rst s = .next t → t.cfg = s.cfg ∧ (∀ a, t.readAddr a = s.readAddr a) ∧ t.att = s.att ∧ t.dma = s.dma ∧
        t.live = s.live ∧ t.params = s.params ∧ t.ops = s.ops ∧ t.replies = s.replies ∧ t.draws = s.draws) ∧
      (exec .close s = .next t → t.cfg = s.cfg ∧ t.att = s.att ∧ t.dma = s.dma ∧ t.trace = s.trace ∧
        t.params = s.params ∧ t.ops = s.ops ∧ t.replies = s.replies ∧ t.draws = s.draws) ∧
      (exec .init s = .next t → t.params = s.params ∧ t.ops = s.ops ∧
        (t.live = false → t.cfg = s.cfg ∧ t.att = s.att ∧ t.dma = s.dma ∧ t.trace = s.trace))

/-- The mode byte is 0x3E at reset, which decodes as detached with channel 3. It is readable at every address whose low
three bits are 010, changes only by an accepted WRITE or by INIT, and an accepted WRITE stores all eight bits and drives
the latches and FEEDBACK (10_state.md section 1). The literal 0x3E is the spec's decision D20, log 19; that reset is the
state after INIT is the model's reading, log 4. The third clause ranges over CLOSE and a failed INIT too: that the
byte keeps its value there is the model's choice, log 6. -/
def Obligations.ModeByteAccess : Prop :=
  (State.reset.cfg[2] = 0x3E#8 ∧ en State.reset.cfg[2] = false ∧ ch State.reset.cfg[2] = 3#3) ∧
    (∀ (s : State) (a : Addr), s.live = true → a.toNat % 8 = 2 →
      exec (.rd a) s = .next { s with replies := s.replies ++ [.byte s.cfg[2]] }) ∧
    (∀ (s t : State) (i : Instr), exec i s = .next t → t.cfg[2] ≠ s.cfg[2] →
      i = .init ∨ ∃ v, i = .wr (cfgPort s.params) v) ∧
    ∀ (s : State) (v : Byte), s.live = true →
      ∃ t, exec (.wr (cfgPort s.params) v) s = .next t ∧ t.cfg[2] = v ∧ t.att = v.getLsbD 0 ∧
        t.dma = v.extractLsb' 4 3 ∧ t.feedback = v.getLsbD 0

/-- A live instance answers a READ of every byte. Of the bytes only `cfg[2]` is ever written after INIT, by an accepted
WRITE, whose index is that of `CFG_PORT`; INIT, when it succeeds, writes all eight; RESET and the others write none
(10_state.md section 1; the literals INIT writes are D20, log 19; a failed INIT is D11). That the bytes of an
instance which does not exist keep their values, after CLOSE and after a failed INIT, is the model's choice, log 6. -/
def Obligations.ConfigurationByteAccessRights : Prop :=
  (∀ (s : State) (k : Bits3), s.live = true → ∃ a, (∃ t, exec (.rd a) s = .next t ∧
      t.replies = s.replies ++ [.byte (s.cfg[k.toNat]'(k.isLt))])) ∧
    ∀ (s t : State) (i : Instr), exec i s = .next t → ∀ k : Bits3,
      t.cfg[k.toNat]'(k.isLt) =
        match i with
        | .wr a v => if a = cfgPort s.params ∧ k = (cfgPort s.params).extractLsb' 0 3 ∧ k = 2#3 then v
            else s.cfg[k.toNat]'(k.isLt)
        | .init => if t.live then (#v[0xFA#8, 0xDF#8, 0x3E#8, 0x04#8, 0x04#8, 0x00#8, 0x00#8, 0x00#8])[k.toNat]'(k.isLt)
            else s.cfg[k.toNat]'(k.isLt)
        | .rd _ => s.cfg[k.toNat]'(k.isLt)
        | .fb => s.cfg[k.toNat]'(k.isLt)
        | .rst => s.cfg[k.toNat]'(k.isLt)
        | .close => s.cfg[k.toNat]'(k.isLt)

/-- Who writes the attach latch, its reset value, and that the engine is mapped at `BASE_ADDR` exactly while it is 1; no
operation changes `BASE_ADDR` (10_state.md section 2). That reset is the state after INIT is the model's reading, log 4.
That a failed INIT happens before anything is written is the spec's decision D11, and that the latch keeps its value in
State there is the model's choice, log 6. -/
def Obligations.AttachLatchDrivesTheMapping : Prop :=
  (∀ (s t : State) (i : Instr), exec i s = .next t →
      t.params.baseAddr = s.params.baseAddr ∧
        t.att =
          match i with
          | .wr a v => if a = cfgPort s.params then v.getLsbD 0 else s.att
          | .init => if t.live then false else s.att
          | .rd _ => s.att
          | .fb => s.att
          | .rst => s.att
          | .close => s.att) ∧
    State.reset.att = false ∧
    ∀ s : State, (s.att = true → s.mapOut = some s.params.baseAddr) ∧ (s.att = false → s.mapOut = none)

/-- Who writes the channel latch, and its reset value (10_state.md section 2). That RESET keeps it is the spec's decision
D12, log 20. That reset is the state after INIT is the model's reading, log 4. That a failed INIT happens before anything
is written is the spec's decision D11, and that the latch keeps its value in State there is the model's choice, log 6. -/
def Obligations.ChannelLatchWriters : Prop :=
  (∀ (s t : State) (i : Instr), exec i s = .next t →
      t.dma =
        match i with
        | .wr a v => if a = cfgPort s.params then v.extractLsb' 4 3 else s.dma
        | .init => if t.live then s.params.defaultDma else s.dma
        | .rd _ => s.dma
        | .fb => s.dma
        | .rst => s.dma
        | .close => s.dma) ∧
    State.reset.dma = State.reset.params.defaultDma

/-- 60_exceptions.md R138: apart from INIT, only WRITE (`Detach`, `SetDma`, `Attach`) and RESET (`EngineReset`) send the
engine anything; READ, FEEDBACK and CLOSE send nothing. -/
def Obligations.EngineEventsComeFromWriteAndReset : Prop :=
  ∀ (s t : State) (i : Instr), i ≠ .init → exec i s = .next t →
    ∃ new, t.trace = s.trace ++ new ∧
      ∀ e ∈ new,
        ((∃ a v, i = .wr a v) ∧ (e = .detach ∨ (∃ c, e = .setDma c) ∨ ∃ x, e = .attach x)) ∨
          (i = .rst ∧ e = .engineReset)

/-- No operation changes `IRQ_LINE`, and the only `SetIrq` an operation issues is that of an INIT which succeeds, once and
with that line (10_state.md section 2). That a failed INIT issues none is the spec's decision D11. -/
def Obligations.InterruptLineIsConstant : Prop :=
  ∀ (s t : State) (i : Instr), exec i s = .next t →
    t.params.irqLine = s.params.irqLine ∧
      ∃ new, t.trace = s.trace ++ new ∧
        new.filter (fun e => match e with | .setIrq _ => true | _ => false) =
          if i = .init ∧ t.live = true then [.setIrq s.params.irqLine] else []

/-- What an instance that does not exist has stored is never read: with other bytes in `cfg`, every operation answers the
same but for those bytes, and exactly the same once INIT has succeeded (70_reset_and_hazards.md section 1, logs 5, 6; the
refusal is D10, log 13). -/
def Obligations.DeadStorageIsNeverRead : Prop :=
  ∀ (i : Instr) (s : State) (c : Vector Byte 8), s.live = false →
    (exec i s = .refused .nomove ∧ exec i { s with cfg := c } = .refused .nomove) ∨
      ∃ t u, exec i s = .next t ∧ exec i { s with cfg := c } = .next u ∧ t = { u with cfg := t.cfg } ∧
        (t.live = true → t = u)

/-- The output latches are never read: with other latches every operation answers the same, byte for byte, reply for
reply and event for event, but for latches it does not itself write (10_state.md section 6, the spec's decision D15). That
RESET, CLOSE and a failed INIT write neither is D12, D18 and, for a failed INIT, D11 and log 6; the refusal is D10,
log 13. -/
def Obligations.LatchesAreNeverRead : Prop :=
  ∀ (i : Instr) (s : State) (att : Bool) (dma : Bits3),
    (exec i s = .refused .nomove ∧ exec i { s with att := att, dma := dma } = .refused .nomove) ∨
      ∃ t u, exec i s = .next t ∧ exec i { s with att := att, dma := dma } = .next u ∧
        u.cfg = t.cfg ∧ u.live = t.live ∧ u.trace = t.trace ∧ u.replies = t.replies ∧
        ((u.att = t.att ∧ u.dma = t.dma) ∨ (t.att = s.att ∧ t.dma = s.dma ∧ u.att = att ∧ u.dma = dma))

/-- The trace is never read: with any other trace every operation does the same and appends the same events
(10_state.md section 4). That INIT appends to the trace of an earlier instance, and the refusal, are D10, logs 18 and
13. -/
def Obligations.TraceIsNeverRead : Prop :=
  ∀ (i : Instr) (s : State) (other : List Event),
    (exec i s = .refused .nomove ∧ exec i { s with trace := other } = .refused .nomove) ∨
      ∃ t new, exec i s = .next t ∧ t.trace = s.trace ++ new ∧
        exec i { s with trace := other } = .next { t with trace := other ++ new }

/-! ### Invariants of every step -/

/-- 10_state.md R34, marked there as the spec's inference: a step keeps `att = cfg[2][0]` of a live instance. That INIT
sets it up rests on bit 0 of the literal 0x3E, D20, log 19. -/
def Obligations.StepKeepsAttachAgreement : Prop :=
  ∀ s t : State, AttachAgrees s → step s = .next t → AttachAgrees t

/-- A step keeps the identity, descriptive and unused bytes of a live instance at their INIT values (10_state.md
section 1; R21, R22, R24, R25 are marked there as the spec's inference, and the literals and the single gate are D20 and
D26, log 19). -/
def Obligations.StepKeepsFixedBytes : Prop :=
  ∀ s t : State, FixedBytesHold s → step s = .next t → FixedBytesHold t

/-- 10_state.md R35, marked there as the spec's inference: a step keeps the channel that of the mode byte once a WRITE has
been accepted since INIT, and `DEFAULT_DMA` before. Whether one has is read off the trace, in which INIT's Register comes
after its SetDma by the order of D17, log 18. -/
def Obligations.StepKeepsChannelAgreement : Prop :=
  ∀ s t : State, ChannelAgrees s → step s = .next t → ChannelAgrees t

/-- A step keeps the outputs what the engine was told: the trace leaves the engine mapped as `MAP` says and on the channel
`dma` (10_state.md section 2, 60_exceptions.md section 5). What the engine was told is read off the trace by
Safety.engineView, the model's reading of Attach, Detach and SetDma, log 7. In it EngineReset changes neither mapping nor
channel, which is the spec's decision D12, log 20: nothing is claimed of what the engine itself does at its reset. Where
there is no instance, that the latches keep their values is D18 after CLOSE and the model's choice, log 6, after a failed
INIT. -/
def Obligations.StepKeepsOutputsMatchingTheTrace : Prop :=
  ∀ s t : State, OutputsMatchTrace s → step s = .next t → OutputsMatchTrace t

/-- 70_reset_and_hazards.md R153, marked there as the spec's inference: a step keeps the trace ordered, so that no channel
is set by a WRITE but right after a Detach, and no Attach comes but right after its WRITE's Detach and SetDma. That
INIT's SetDma follows at once on its SetIrq rests on the order of INIT's first events, which the spec decides in D17 and
says to treat as unspecified: the model's order is log 18. -/
def Obligations.StepKeepsTraceOrder : Prop :=
  ∀ s t : State, TraceSafe s → step s = .next t → TraceSafe t

/-- The reset state meets each of these invariants. Reset as the state after INIT is log 4; that its trace is ordered rests
on the order of INIT's first events, D17, log 18; the bytes are D20, log 19; the engine's view of the trace is log 7. -/
def Obligations.ResetMeetsTheInvariants : Prop :=
  AttachAgrees State.reset ∧ FixedBytesHold State.reset ∧ ChannelAgrees State.reset ∧
    OutputsMatchTrace State.reset ∧ TraceSafe State.reset

/-! ### Runs -/

/-- 20_memory.md R50: a live instance runs every sequence of READ, WRITE, FEEDBACK and RESET to its end, in the order
issued, and answers each READ and FEEDBACK from the last accepted WRITE before it, or from the state it started from. -/
def Obligations.RunAnswersFromTheLastAcceptedWrite : Prop :=
  ∀ (s : State) (is : List Instr), s.live = true → s.ops = [] → FixedBytesHold s →
    (∀ i ∈ is, staysLive i = true) →
      ∃ t, core.run is.length (s.issue (is.map encode)) = .next t ∧
        t.ops = [] ∧ t.live = true ∧ FixedBytesHold t ∧
        t.replies = s.replies ++ answers s.params s.cfg[2] is ∧
        t.cfg[2] = lastAccepted s.params s.cfg[2] is ∧
        t.trace = s.trace ++ is.flatMap (eventsOf s.params)

/-- A detached engine stays detached until the host writes `CFG_PORT` with bit 0 set: a run without such a WRITE ends
detached and never issues an Attach (70_reset_and_hazards.md section 2). -/
def Obligations.EngineStaysDetachedUntilEnabled : Prop :=
  ∀ (s : State) (is : List Instr), s.live = true → s.ops = [] → s.att = false →
    (∀ i ∈ is, staysLive i = true) → (∀ v, Instr.wr (cfgPort s.params) v ∈ is → v.getLsbD 0 = false) →
      ∃ t new, core.run is.length (s.issue (is.map encode)) = .next t ∧
        t.att = false ∧ t.mapOut = none ∧ t.trace = s.trace ++ new ∧ ∀ x, Event.attach x ∉ new

/-- A step that is no WRITE to the port with bit 0 set keeps a detached engine detached and issues no Attach
(70_reset_and_hazards.md section 2). Where there is no instance, that `att` keeps its value is D18, after CLOSE, and the
model's choices, logs 5 and 6; that a failed INIT issues nothing is D11. -/
def Obligations.StepKeepsTheEngineDetached : Prop :=
  ∀ s t : State, s.att = false →
    (∀ w rest v, s.ops = w :: rest → decode w = .instr (.wr (cfgPort s.params) v) → v.getLsbD 0 = false) →
      step s = .next t →
        t.att = false ∧ t.mapOut = none ∧ ∃ new, t.trace = s.trace ++ new ∧ ∀ x, Event.attach x ∉ new
end

