-- ==== Sys2Proof/Laws/Assembler.lean ====
section
/-! SUPPORT. The digits and numbers of the notation: what is printed is read back, and no digit parts tokens. -/

namespace Sys2Proof.Machine

/-- A printed digit is read back. -/
@[simp] theorem hexValue_hexDigit (d : BitVec 4) : hexValue (hexDigit d) = some d.toNat := by
  revert d
  decide

/-- A printed digit is no space, tab or end of line. -/
theorem hexDigit_not_blank (d : BitVec 4) :
    ¬ (hexDigit d = ' ' ∨ hexDigit d = '\t' ∨ hexDigit d = '\r') := by
  revert d
  decide

/-- A printed digit is no comma. -/
theorem hexDigit_ne_comma (d : BitVec 4) : hexDigit d ≠ ',' := by
  revert d
  decide

/-- A printed digit starts no comment. -/
theorem hexDigit_ne_semicolon (d : BitVec 4) : hexDigit d ≠ ';' := by
  revert d
  decide

/-- A printed byte is read back. -/
theorem parseNumber_byteText (v : Byte) : parseNumber 8 (byteText v) = some v := by
  have h : v.toNat / 16 % 16 * 16 + v.toNat % 16 = v.toNat := by have := v.isLt; omega
  simp [parseNumber, byteText, hexNumber, BitVec.extractLsb'_toNat, Nat.shiftRight_eq_div_pow, h]
  omega

/-- A printed address is read back. -/
theorem parseNumber_addrText (a : Addr) : parseNumber 16 (addrText a) = some a := by
  have h : ((a.toNat / 4096 % 16 * 16 + a.toNat / 256 % 16) * 16 + a.toNat / 16 % 16) * 16 + a.toNat % 16 =
      a.toNat := by have := a.isLt; omega
  simp [parseNumber, addrText, hexNumber, BitVec.extractLsb'_toNat, Nat.shiftRight_eq_div_pow, h]
  omega

end Sys2Proof.Machine
end

