-- ==== Sys2Proof/Laws/Decode.lean ====
section
/-! SUPPORT. The fields of a word and the word of given fields are inverse to each other; the decoder answers by the
fields alone. -/

namespace Sys2Proof

/-- Packing loses no bit of a field (30_encoding.md R61). -/
@[simp] theorem fieldsOf_wordOf (f : OpFields) : fieldsOf (wordOf f) = f := by
  obtain ⟨k, a, d⟩ := f
  simp only [fieldsOf, wordOf, OpFields.mk.injEq]
  refine ⟨?_, ?_, ?_⟩ <;> apply BitVec.eq_of_getLsbD_eq <;> intro i hi <;>
    simp only [BitVec.getLsbD_extractLsb', BitVec.getLsbD_append, hi, decide_true, Bool.true_and]
  · simp [show ¬ 24 + i < 8 by omega, show ¬ 24 + i - 8 < 16 by omega, show 24 + i - 8 - 16 = i by omega]
  · simp [hi]
  · simp [hi]

/-- The three fields cover the whole word (30_encoding.md R61). -/
@[simp] theorem wordOf_fieldsOf (w : Word) : wordOf (fieldsOf w) = w := by
  apply BitVec.eq_of_getLsbD_eq
  intro i hi
  simp only [wordOf, fieldsOf, BitVec.getLsbD_append, BitVec.getLsbD_extractLsb']
  by_cases h8 : i < 8
  · simp [h8]
  · by_cases h24 : i - 8 < 16
    · simp [h8, h24, show 8 + (i - 8) = i by omega]
    · simp [h8, h24, show i - 8 - 16 < 3 by omega, show 24 + (i - 8 - 16) = i by omega]

/-- The decoder sees a packed word's fields. -/
@[simp] theorem decode_wordOf (f : OpFields) : decode (wordOf f) = decodeFields f := by
  simp [decode]

/-- All that an operation without operands decodes to. -/
theorem decodeBare_eq_instr {f : OpFields} {i j : Instr} :
    decodeBare f i = .instr j ↔ f.addr = 0#16 ∧ f.data = 0#8 ∧ j = i := by
  unfold decodeBare
  split <;> rename_i h
  · simp [h.1, h.2, eq_comm]
  · simp only [reduceCtorEq, false_iff]
    exact fun h' => h ⟨h'.1, h'.2.1⟩

end Sys2Proof
end

