-- ==== Sys2Proof/Laws/Operands.lean ====
section
/-! SUPPORT. The operand forms: the designated port, the gate, the index and the mode byte's fields. -/

namespace Sys2Proof.Machine

/-- `CFG_PORT[2:0] = 0b010` for every adapter (00_scope.md R6). -/
@[simp] theorem idx_cfgPort (p : Config.Params) : idx (cfgPort p) = modeIndex := by
  apply BitVec.eq_of_getLsbD_eq
  intro i hi
  have h := BitVec.getLsbD_append (i := i) (x := p.cfgPortHigh) (y := 0b010#3)
  simp only [hi, if_true] at h
  simp only [idx, cfgPort, modeIndex, BitVec.getLsbD_extractLsb', hi, decide_true, Bool.true_and, Nat.zero_add]
  exact h

/-- The gate opens for the designated port and for no other address (20_memory.md R42). -/
@[simp] theorem accepts_eq_true_iff (p : Config.Params) (a : Addr) : accepts p a = true ↔ a = cfgPort p := by
  simp [accepts]

/-- `idx(a) = a & 7` (30_encoding.md R65). -/
theorem idx_toNat (a : Addr) : (idx a).toNat = a.toNat % 8 := by
  simp [idx, BitVec.extractLsb'_toNat]

/-- Channel = `(v >> 4) & 7` (30_encoding.md R66). -/
theorem ch_toNat (v : Byte) : (ch v).toNat = v.toNat / 16 % 8 := by
  simp [ch, BitVec.extractLsb'_toNat, Nat.shiftRight_eq_div_pow]

end Sys2Proof.Machine
end

