-- ==== Sys2Proof/Laws/State.lean ====
section
/-! SUPPORT. One lemma per field of State and per update of Machine/Ops.lean, so that no proof unfolds a record update. -/

namespace Sys2Proof.Machine

section Fields

variable (s : State)

@[simp] theorem State.setByte_cfg (i : Bits3) (v : Byte) : (s.setByte i v).cfg = s.cfg.set i.toNat v i.isLt := rfl
@[simp] theorem State.setByte_att (i : Bits3) (v : Byte) : (s.setByte i v).att = s.att := rfl
@[simp] theorem State.setByte_dma (i : Bits3) (v : Byte) : (s.setByte i v).dma = s.dma := rfl
@[simp] theorem State.setByte_live (i : Bits3) (v : Byte) : (s.setByte i v).live = s.live := rfl
@[simp] theorem State.setByte_trace (i : Bits3) (v : Byte) : (s.setByte i v).trace = s.trace := rfl
@[simp] theorem State.setByte_params (i : Bits3) (v : Byte) : (s.setByte i v).params = s.params := rfl
@[simp] theorem State.setByte_ops (i : Bits3) (v : Byte) : (s.setByte i v).ops = s.ops := rfl
@[simp] theorem State.setByte_replies (i : Bits3) (v : Byte) : (s.setByte i v).replies = s.replies := rfl
@[simp] theorem State.setByte_draws (i : Bits3) (v : Byte) : (s.setByte i v).draws = s.draws := rfl

@[simp] theorem State.emit_cfg (e : Event) : (s.emit e).cfg = s.cfg := rfl
@[simp] theorem State.emit_att (e : Event) : (s.emit e).att = s.att := rfl
@[simp] theorem State.emit_dma (e : Event) : (s.emit e).dma = s.dma := rfl
@[simp] theorem State.emit_live (e : Event) : (s.emit e).live = s.live := rfl
@[simp] theorem State.emit_trace (e : Event) : (s.emit e).trace = s.trace ++ [e] := rfl
@[simp] theorem State.emit_params (e : Event) : (s.emit e).params = s.params := rfl
@[simp] theorem State.emit_ops (e : Event) : (s.emit e).ops = s.ops := rfl
@[simp] theorem State.emit_replies (e : Event) : (s.emit e).replies = s.replies := rfl
@[simp] theorem State.emit_draws (e : Event) : (s.emit e).draws = s.draws := rfl

@[simp] theorem State.reply_cfg (r : Reply) : (s.reply r).cfg = s.cfg := rfl
@[simp] theorem State.reply_att (r : Reply) : (s.reply r).att = s.att := rfl
@[simp] theorem State.reply_dma (r : Reply) : (s.reply r).dma = s.dma := rfl
@[simp] theorem State.reply_live (r : Reply) : (s.reply r).live = s.live := rfl
@[simp] theorem State.reply_trace (r : Reply) : (s.reply r).trace = s.trace := rfl
@[simp] theorem State.reply_params (r : Reply) : (s.reply r).params = s.params := rfl
@[simp] theorem State.reply_ops (r : Reply) : (s.reply r).ops = s.ops := rfl
@[simp] theorem State.reply_replies (r : Reply) : (s.reply r).replies = s.replies ++ [r] := rfl
@[simp] theorem State.reply_draws (r : Reply) : (s.reply r).draws = s.draws := rfl

@[simp] theorem State.detachEngine_cfg : s.detachEngine.cfg = s.cfg := rfl
@[simp] theorem State.detachEngine_att : s.detachEngine.att = false := rfl
@[simp] theorem State.detachEngine_dma : s.detachEngine.dma = s.dma := rfl
@[simp] theorem State.detachEngine_live : s.detachEngine.live = s.live := rfl
@[simp] theorem State.detachEngine_trace : s.detachEngine.trace = s.trace ++ [.detach] := rfl
@[simp] theorem State.detachEngine_params : s.detachEngine.params = s.params := rfl
@[simp] theorem State.detachEngine_ops : s.detachEngine.ops = s.ops := rfl
@[simp] theorem State.detachEngine_replies : s.detachEngine.replies = s.replies := rfl
@[simp] theorem State.detachEngine_draws : s.detachEngine.draws = s.draws := rfl

@[simp] theorem State.setEngineDma_cfg (c : Bits3) : (s.setEngineDma c).cfg = s.cfg := rfl
@[simp] theorem State.setEngineDma_att (c : Bits3) : (s.setEngineDma c).att = s.att := rfl
@[simp] theorem State.setEngineDma_dma (c : Bits3) : (s.setEngineDma c).dma = c := rfl
@[simp] theorem State.setEngineDma_live (c : Bits3) : (s.setEngineDma c).live = s.live := rfl
@[simp] theorem State.setEngineDma_trace (c : Bits3) : (s.setEngineDma c).trace = s.trace ++ [.setDma c] := rfl
@[simp] theorem State.setEngineDma_params (c : Bits3) : (s.setEngineDma c).params = s.params := rfl
@[simp] theorem State.setEngineDma_ops (c : Bits3) : (s.setEngineDma c).ops = s.ops := rfl
@[simp] theorem State.setEngineDma_replies (c : Bits3) : (s.setEngineDma c).replies = s.replies := rfl
@[simp] theorem State.setEngineDma_draws (c : Bits3) : (s.setEngineDma c).draws = s.draws := rfl

@[simp] theorem State.attachEngine_cfg : s.attachEngine.cfg = s.cfg := rfl
@[simp] theorem State.attachEngine_att : s.attachEngine.att = true := rfl
@[simp] theorem State.attachEngine_dma : s.attachEngine.dma = s.dma := rfl
@[simp] theorem State.attachEngine_live : s.attachEngine.live = s.live := rfl
@[simp] theorem State.attachEngine_trace : s.attachEngine.trace = s.trace ++ [.attach s.params.baseAddr] := rfl
@[simp] theorem State.attachEngine_params : s.attachEngine.params = s.params := rfl
@[simp] theorem State.attachEngine_ops : s.attachEngine.ops = s.ops := rfl
@[simp] theorem State.attachEngine_replies : s.attachEngine.replies = s.replies := rfl
@[simp] theorem State.attachEngine_draws : s.attachEngine.draws = s.draws := rfl

@[simp] theorem State.issue_cfg (ws : List Word) : (s.issue ws).cfg = s.cfg := rfl
@[simp] theorem State.issue_att (ws : List Word) : (s.issue ws).att = s.att := rfl
@[simp] theorem State.issue_dma (ws : List Word) : (s.issue ws).dma = s.dma := rfl
@[simp] theorem State.issue_live (ws : List Word) : (s.issue ws).live = s.live := rfl
@[simp] theorem State.issue_trace (ws : List Word) : (s.issue ws).trace = s.trace := rfl
@[simp] theorem State.issue_params (ws : List Word) : (s.issue ws).params = s.params := rfl
@[simp] theorem State.issue_ops (ws : List Word) : (s.issue ws).ops = s.ops ++ ws := rfl
@[simp] theorem State.issue_replies (ws : List Word) : (s.issue ws).replies = s.replies := rfl
@[simp] theorem State.issue_draws (ws : List Word) : (s.issue ws).draws = s.draws := rfl

@[simp] theorem State.pushOp_cfg (w : Word) : (s.pushOp w).cfg = s.cfg := rfl
@[simp] theorem State.pushOp_att (w : Word) : (s.pushOp w).att = s.att := rfl
@[simp] theorem State.pushOp_dma (w : Word) : (s.pushOp w).dma = s.dma := rfl
@[simp] theorem State.pushOp_live (w : Word) : (s.pushOp w).live = s.live := rfl
@[simp] theorem State.pushOp_trace (w : Word) : (s.pushOp w).trace = s.trace := rfl
@[simp] theorem State.pushOp_params (w : Word) : (s.pushOp w).params = s.params := rfl
@[simp] theorem State.pushOp_ops (w : Word) : (s.pushOp w).ops = w :: s.ops := rfl
@[simp] theorem State.pushOp_replies (w : Word) : (s.pushOp w).replies = s.replies := rfl
@[simp] theorem State.pushOp_draws (w : Word) : (s.pushOp w).draws = s.draws := rfl

end Fields

/-! ### Bytes and outputs under the updates -/

/-- The byte just written (20_memory.md R50). -/
@[simp] theorem State.setByte_byteAt_same (s : State) (i : Bits3) (v : Byte) : (s.setByte i v).byteAt i = v := by
  simp [State.byteAt]

/-- Every other byte stays. -/
theorem State.setByte_byteAt_other (s : State) {i k : Bits3} (v : Byte) (h : k ≠ i) :
    (s.setByte i v).byteAt k = s.byteAt k := by
  have hn : i.toNat ≠ k.toNat := fun e => h (BitVec.eq_of_toNat_eq e.symm)
  simp [State.byteAt, Vector.getElem_set_ne, hn]

/-- A byte depends on `cfg` alone. -/
theorem State.byteAt_congr {s t : State} (h : t.cfg = s.cfg) (k : Bits3) : t.byteAt k = s.byteAt k := by
  simp [State.byteAt, h]

/-- What a read of an address answers depends on `cfg` alone. -/
theorem State.readAddr_congr {s t : State} (h : t.cfg = s.cfg) (a : Addr) : t.readAddr a = s.readAddr a :=
  State.byteAt_congr h (idx a)

/-- Two states with the same eight bytes hold the same array. -/
theorem State.cfg_ext {s t : State} (h : ∀ k : Bits3, t.byteAt k = s.byteAt k) : t.cfg = s.cfg := by
  apply Vector.ext
  intro n hn
  simpa [State.byteAt, Nat.mod_eq_of_lt hn] using h (BitVec.ofNat 3 n)

/-- `MAP` while attached (10_state.md R30). -/
theorem State.mapOut_attached {s : State} (h : s.att = true) : s.mapOut = some s.params.baseAddr := by
  simp [State.mapOut, h]

/-- `MAP` while detached (10_state.md R30). -/
theorem State.mapOut_detached {s : State} (h : s.att = false) : s.mapOut = none := by
  simp [State.mapOut, h]

end Sys2Proof.Machine
end

