-- ==== Sys2Proof/Laws/Ops.lean ====
section
/-! SUPPORT. Once for each shared operation of Machine/Ops.lean: everything it can do. -/

namespace Sys2Proof.Machine

open Sys2Proof.Safety

/-! ### The lifecycle guards -/

/-- All that `require live == 1` can do (42_lifecycle.md R115). -/
theorem State.requireLive_eq_next {s t u : State} : s.requireLive t = .next u ↔ s.live = true ∧ u = t := by
  cases h : s.live <;> simp [State.requireLive, h, eq_comm]

/-- All that `require live == 0` can do (42_lifecycle.md R115). -/
theorem State.requireDead_eq_next {s t u : State} : s.requireDead t = .next u ↔ s.live = false ∧ u = t := by
  cases h : s.live <;> simp [State.requireDead, h, eq_comm]

/-- `require live == 1` of a live instance. -/
theorem State.requireLive_live {s : State} (t : State) (h : s.live = true) : s.requireLive t = .next t := by
  simp [State.requireLive, h]

/-- `require live == 1` where there is no instance. -/
theorem State.requireLive_dead {s : State} (t : State) (h : s.live = false) : s.requireLive t = .refused .nomove := by
  simp [State.requireLive, h]

/-- `require live == 0` where there is no instance. -/
theorem State.requireDead_dead {s : State} (t : State) (h : s.live = false) : s.requireDead t = .next t := by
  simp [State.requireDead, h]

/-- `require live == 0` of a live instance. -/
theorem State.requireDead_live {s : State} (t : State) (h : s.live = true) : s.requireDead t = .refused .nomove := by
  simp [State.requireDead, h]

/-! ### The sequences -/

/-- All that a reconfiguration does (41_write.md R90, R92). -/
theorem State.reconfigure_eq (s : State) (v : Byte) :
    s.reconfigure v =
      { s with att := en v, dma := ch v, trace := s.trace ++ writeEvents s.params v } := by
  cases h : en v <;>
    simp [State.reconfigure, writeEvents, h, State.detachEngine, State.setEngineDma, State.attachEngine, State.emit]

/-- All that an accepted WRITE does (41_write.md R90). -/
theorem State.acceptedWrite_port (s : State) (p : Config.Params) (v : Byte) :
    s.acceptedWrite (cfgPort p) v =
      { s.setByte modeIndex v with att := en v, dma := ch v, trace := s.trace ++ writeEvents s.params v } := by
  simp [State.acceptedWrite, State.reconfigure_eq]

/-- WRITE to the designated port (20_memory.md R42). -/
theorem State.writeAddr_port {s : State} {a : Addr} (v : Byte) (h : a = cfgPort s.params) :
    s.writeAddr a v =
      { s.setByte modeIndex v with att := en v, dma := ch v, trace := s.trace ++ writeEvents s.params v } := by
  subst h
  simp [State.writeAddr, State.acceptedWrite_port]

/-- WRITE to any other address does nothing (41_write.md R91). -/
theorem State.writeAddr_other {s : State} {a : Addr} (v : Byte) (h : a ≠ cfgPort s.params) : s.writeAddr a v = s := by
  simp [State.writeAddr, h]

/-- All that a successful INIT does (42_lifecycle.md R112). -/
theorem State.construct_eq (s : State) :
    s.construct =
      { s with cfg := resetCfg, att := false, dma := s.params.defaultDma, live := true,
               trace := s.trace ++ initEvents s.params } := by
  simp [State.construct, initEvents, State.emit, State.setEngineDma, State.detachEngine]

/-- INIT with `init_ok = 1`. -/
@[simp] theorem State.initWith_true (s : State) : s.initWith true = s.construct.reply .success := rfl

/-- INIT with `init_ok = 0`. -/
@[simp] theorem State.initWith_false (s : State) : s.initWith false = s.reply .failure := rfl

/-- All that an INIT which finds no instance does, for either value of the draw (42_lifecycle.md R112, R113). -/
theorem State.drawnInit_eq (s : State) :
    s.drawnInit =
      if Config.initOk s.draws then
        { s with cfg := resetCfg, att := false, dma := s.params.defaultDma, live := true,
                 trace := s.trace ++ initEvents s.params, replies := s.replies ++ [.success],
                 draws := s.draws + 1 }
      else { s with replies := s.replies ++ [.failure], draws := s.draws + 1 } := by
  simp only [State.drawnInit]
  cases Config.initOk s.draws <;> simp [State.construct_eq, State.reply]

/-! ### The host's operations -/

/-- The host's next operation is the word put first. -/
@[simp] theorem State.takeOp_pushOp (s : State) (w : Word) : (s.pushOp w).takeOp = some (w, s) := rfl

/-- No operation is waiting exactly when the list is empty. -/
theorem State.takeOp_eq_none {s : State} : s.takeOp = none ↔ s.ops = [] := by
  cases h : s.ops <;> simp [State.takeOp, h]

/-- Taking an operation removes it and touches nothing else. -/
theorem State.takeOp_eq_some {s t : State} {w : Word} :
    s.takeOp = some (w, t) ↔ ∃ rest, s.ops = w :: rest ∧ t = { s with ops := rest } := by
  cases h : s.ops with
  | nil => simp [State.takeOp, h]
  | cons x xs =>
    simp only [State.takeOp, h, Option.some.injEq, Prod.mk.injEq, List.cons.injEq]
    constructor
    · rintro ⟨rfl, rfl⟩
      exact ⟨xs, ⟨rfl, rfl⟩, rfl⟩
    · rintro ⟨rest, ⟨rfl, rfl⟩, rfl⟩
      exact ⟨rfl, rfl⟩

end Sys2Proof.Machine
end

