-- ==== Sys2Proof/Laws/Exec.lean ====
section
/-! SUPPORT. What each meaning can answer, said once by its guard; and what a step is by the word it takes. -/

namespace Sys2Proof.Machine

theorem execRd_eq_next {a : Addr} {s t : State} :
    execRd a s = .next t ↔ s.live = true ∧ t = s.reply (.byte (s.readAddr a)) :=
  State.requireLive_eq_next

theorem execWr_eq_next {a : Addr} {v : Byte} {s t : State} :
    execWr a v s = .next t ↔ s.live = true ∧ t = s.writeAddr a v :=
  State.requireLive_eq_next

theorem execFb_eq_next {s t : State} :
    execFb s = .next t ↔ s.live = true ∧ t = s.reply (.bit s.feedback) :=
  State.requireLive_eq_next

theorem execRst_eq_next {s t : State} : execRst s = .next t ↔ s.live = true ∧ t = s.emit .engineReset :=
  State.requireLive_eq_next

theorem execInit_eq_next {s t : State} : execInit s = .next t ↔ s.live = false ∧ t = s.drawnInit :=
  State.requireDead_eq_next

theorem execClose_eq_next {s t : State} :
    execClose s = .next t ↔ s.live = true ∧ t = { s with live := false } :=
  State.requireLive_eq_next

/-- Waiting changes nothing. -/
@[simp] theorem waitForHost_eq (s : State) : s.waitForHost = .next s := rfl

/-- Placing a word is putting it first. -/
@[simp] theorem placeWord_eq (s : State) (nbits w : Nat) :
    s.placeWord nbits w = s.pushOp (BitVec.ofNat 27 (w % 2 ^ nbits)) := rfl

/-- A word that decodes runs its operation. -/
theorem runWord_instr {w : Word} {i : Instr} (s : State) (h : decode w = .instr i) : runWord w s = exec i s := by
  simp [runWord, h]

/-- A step takes the word put first and runs it. -/
@[simp] theorem step_pushOp (s : State) (w : Word) : step (s.pushOp w) = runWord w s := rfl

/-- A step takes the first of the words waiting and runs it with the others waiting. -/
theorem step_cons {s : State} {w : Word} {ws : List Word} (h : s.ops = w :: ws) :
    step s = runWord w { s with ops := ws } := by
  simp [step, State.takeOp, h]

/-- All that a step which answers a next state can do: wait, or run the operation that the next word decodes to. -/
theorem step_eq_next {s t : State} (h : step s = .next t) :
    (s.ops = [] ∧ t = s) ∨
      ∃ w rest i, s.ops = w :: rest ∧ decode w = .instr i ∧ exec i { s with ops := rest } = .next t := by
  unfold step at h
  cases hop : s.ops with
  | nil =>
    simp only [State.takeOp, hop, waitForHost_eq, Host.Outcome.next.injEq] at h
    exact .inl ⟨rfl, h.symm⟩
  | cons w rest =>
    simp only [State.takeOp, hop, runWord] at h
    cases hd : decode w with
    | instr i => exact .inr ⟨w, rest, i, rfl, hd, by simpa [hd] using h⟩
    | refused r => simp [hd] at h

/-- A property that no operation breaks and that does not depend on the operations waiting is kept by every step. -/
theorem step_keeps {P : State → Prop} (hops : ∀ s ws, P s → P { s with ops := ws })
    (hexec : ∀ s t i, P s → exec i s = .next t → P t) : ∀ s t, P s → step s = .next t → P t := by
  intro s t hs h
  obtain ⟨-, rfl⟩ | ⟨w, rest, i, -, -, he⟩ := step_eq_next h
  · exact hs
  · exact hexec _ _ i (hops s rest hs) he

end Sys2Proof.Machine
end

