-- ==== Sys2Proof/Laws/PerInstr.lean ====
section
/-! SUPPORT. Facts about every operation as syntax, one lemma per constructor. -/

namespace Sys2Proof.Laws.EncodedFields

/-- The fields of an operation's word satisfy every "must be" of 30_encoding.md R62, and each operand stands in its own
field (R61, R64). -/
def Statement (i : Instr) : Prop :=
  (fieldsOf (encode i)).wellFormed = true ∧
    match i with
    | .rd a => (fieldsOf (encode i)).addr = a
    | .wr a v => (fieldsOf (encode i)).addr = a ∧ (fieldsOf (encode i)).data = v
    | .fb => True
    | .rst => True
    | .init => True
    | .close => True

theorem rd (a : Addr) : Statement (.rd a) := by
  simp [Statement, encode, encodeFields, OpFields.wellFormed, OpFields.kindDefined, OpFields.addrAllowed,
    OpFields.dataAllowed]

theorem wr (a : Addr) (v : Byte) : Statement (.wr a v) := by
  simp [Statement, encode, encodeFields, OpFields.wellFormed, OpFields.kindDefined, OpFields.addrAllowed,
    OpFields.dataAllowed]

theorem fb : Statement .fb := ⟨by decide, trivial⟩

theorem rst : Statement .rst := ⟨by decide, trivial⟩

theorem init : Statement .init := ⟨by decide, trivial⟩

theorem close : Statement .close := ⟨by decide, trivial⟩

end Sys2Proof.Laws.EncodedFields
end

