-- ==== Sys2Proof/Laws/Run.lean ====
section
/-! SUPPORT. Runs of several steps: one step unrolled, the operations of a list of words one by one, and the induction
that carries an invariant of the step along a run. -/

namespace Sys2Proof.Machine

/-- No step, no change. -/
@[simp] theorem run_zero (s : State) : core.run 0 s = .next s := rfl

/-- A run whose first step goes on is the rest of the run. -/
theorem run_succ_of_next {s t : State} (k : Nat) (h : step s = .next t) : core.run (k + 1) s = core.run k t := by
  have hc : core.step s = .next t := h
  simp only [Host.Core.run, hc]

/-- What a run that goes on has done first. -/
theorem run_succ_eq_next {s u : State} {k : Nat} (h : core.run (k + 1) s = .next u) :
    ∃ t, step s = .next t ∧ core.run k t = .next u := by
  cases hs : step s with
  | next t => exact ⟨t, rfl, by rwa [run_succ_of_next k hs] at h⟩
  | fault f => exact f.casesOn
  | refused r =>
    have hc : core.step s = .refused r := hs
    simp [Host.Core.run, hc] at h

/-- An invariant that every step keeps holds after every run that goes on. -/
theorem run_keeps {P : State → Prop} (hstep : ∀ s t, P s → step s = .next t → P t) :
    ∀ (k : Nat) (s t : State), P s → core.run k s = .next t → P t := by
  intro k
  induction k with
  | zero =>
    intro s t hs h
    obtain rfl : s = t := Host.Outcome.next.inj h
    exact hs
  | succ k ih =>
    intro s u hs h
    obtain ⟨t, ht, hu⟩ := run_succ_eq_next h
    exact ih t u (hstep s t hs ht) hu

end Sys2Proof.Machine
end

