-- ==== Sys2Proof/Laws/Trace.lean ====
section
/-! SUPPORT. The trace predicates of Safety.lean under the appending of events. -/

namespace Sys2Proof.Safety

open Sys2Proof.Machine

/-- The engine's view goes on from where the earlier trace left it. -/
@[simp] theorem engineView_append (t u : List Event) :
    engineView (t ++ u) = u.foldl EngineView.after (engineView t) := by
  simp [engineView]

/-- A RESET's event is no WRITE. -/
@[simp] theorem writtenSinceInit_engineReset (t : List Event) :
    writtenSinceInit (t ++ [.engineReset]) = writtenSinceInit t := by
  simp [writtenSinceInit]

/-- After a successful INIT no WRITE has been accepted yet. -/
@[simp] theorem writtenSinceInit_init (t : List Event) (p : Config.Params) :
    writtenSinceInit (t ++ initEvents p) = false := by
  simp [writtenSinceInit, initEvents]

/-- After an accepted WRITE one has. -/
@[simp] theorem writtenSinceInit_write (t : List Event) (p : Config.Params) (v : Byte) :
    writtenSinceInit (t ++ writeEvents p v) = true := by
  cases hv : en v <;> simp [writtenSinceInit, writeEvents, hv]

/-- A split of a longer trace is at its last event or is a split of the earlier trace. -/
theorem snoc_split {t before after : List Event} {e d : Event} (h : t ++ [e] = before ++ d :: after) :
    (before = t ∧ d = e) ∨ ∃ after', t = before ++ d :: after' := by
  obtain rfl | ⟨after', e', rfl⟩ := List.eq_nil_or_concat after
  · obtain ⟨rfl, h'⟩ := List.append_inj' h rfl
    exact .inl ⟨rfl, by simpa using h'.symm⟩
  · rw [List.concat_eq_append, ← List.cons_append, ← List.append_assoc] at h
    exact .inr ⟨after', (List.append_inj' h rfl).1⟩

/-- One more event keeps the order if, being a `SetDma` or an `Attach`, it follows on what it must. -/
theorem TraceOrdered.snoc {base : IoAddr} {t : List Event} {e : Event} (h : TraceOrdered base t)
    (hdma : ∀ c, e = .setDma c → t.getLast? = some .detach ∨ ∃ n, t.getLast? = some (.setIrq n))
    (hattach : ∀ x, e = .attach x → x = base ∧ ∃ earlier c, t = earlier ++ [.detach, .setDma c]) :
    TraceOrdered base (t ++ [e]) := by
  constructor
  · intro before after c hs
    obtain ⟨rfl, he⟩ | ⟨after', ht⟩ := snoc_split hs
    · exact hdma c he.symm
    · exact h.1 before after' c ht
  · intro before after x hs
    obtain ⟨rfl, he⟩ | ⟨after', ht⟩ := snoc_split hs
    · exact hattach x he.symm
    · exact h.2 before after' x ht

/-- One more event that is neither `SetDma` nor `Attach` keeps the order. -/
theorem TraceOrdered.snoc_plain {base : IoAddr} {t : List Event} {e : Event} (h : TraceOrdered base t)
    (hdma : ∀ c, e ≠ .setDma c) (hattach : ∀ x, e ≠ .attach x) : TraceOrdered base (t ++ [e]) :=
  h.snoc (fun c hc => absurd hc (hdma c)) (fun x hx => absurd hx (hattach x))

end Sys2Proof.Safety
end

