-- ==== Sys2Proof/Tests/Slice0.lean ====
section
/-! SUPPORT. The model's own tests: expected results are those of spec/95_test_vectors.md, in its example instantiation
`CFG_PORT = 0x0102` (92_eei_decisions.md D22), and a witness for the hypotheses of every statement that has some. -/

namespace Sys2Proof.Tests

open Sys2Proof.Machine Sys2Proof.Safety

/-- An adapter with `CFG_PORT = 0x0102`; the other parameters are arbitrary. -/
def adapter : Config.Params := ⟨0x0020#13, 0x1234, 5, 1#3⟩

/-- The state S0 of 95_test_vectors.md for that adapter. -/
def s0 : State := State.resetOf adapter

/-- S0 after an accepted WRITE of `v`, written out. -/
def written (v : Byte) : State :=
  { s0 with
    cfg := #v[0xFA#8, 0xDF#8, v, 0x04#8, 0x04#8, 0x00#8, 0x00#8, 0x00#8]
    att := en v
    dma := ch v
    trace := initEvents adapter ++ writeEvents adapter v }

/-- The closed instance: S0 after CLOSE. -/
def closed : State := { s0 with live := false }

/-- The next state, if there is one. -/
def nextOf : Host.Outcome State Fault Refusal → Option State
  | .next t => some t
  | .fault _ => none
  | .refused _ => none

/-- The refusal, if there is one. -/
def refusalOf? : Host.Outcome State Fault Refusal → Option Refusal
  | .next _ => none
  | .fault _ => none
  | .refused r => some r

theorem test_adapter_port : cfgPort adapter = 0x0102#16 := by decide

/-! ### WellFormed: an ill-formed term for each check -/

/-- V-DECODE: `0x6000000`, KIND 110. -/
theorem test_kind_reserved_refused : (OpFields.mk 6#3 0#16 0#8).kindDefined = false := by decide

/-- V-DECODE: `0x3000100`, RESET with a nonzero ADDR. -/
theorem test_addr_nonzero_refused : (OpFields.mk 3#3 1#16 0#8).addrAllowed = false := by decide

/-- V-DECODE: `0x0010201`, READ with a nonzero DATA. -/
theorem test_data_nonzero_refused : (OpFields.mk 0#3 0x0102#16 1#8).dataAllowed = false := by decide

/-- The whole check refuses each of the three. -/
theorem test_ill_formed_refused :
    (OpFields.mk 6#3 0#16 0#8).wellFormed = false ∧ (OpFields.mk 3#3 1#16 0#8).wellFormed = false ∧
      (OpFields.mk 0#3 0x0102#16 1#8).wellFormed = false := by decide

/-! ### Decode: words written out bit by bit from 30_encoding.md R61 and R62 -/

/-- KIND 000, ADDR 0x0102, DATA 0x00 (V-READ `0x0010200`). -/
theorem test_decode_rd : decode 0b000_0000000100000010_00000000#27 = .instr (.rd 0x0102#16) := by decide

/-- KIND 001, ADDR 0x0102, DATA 0x4B (V-WRITE-ACCEPTED `0x101024B`). -/
theorem test_decode_wr : decode 0b001_0000000100000010_01001011#27 = .instr (.wr 0x0102#16 0x4B#8) := by decide

theorem test_decode_fb : decode 0b010_0000000000000000_00000000#27 = .instr .fb := by decide

theorem test_decode_rst : decode 0b011_0000000000000000_00000000#27 = .instr .rst := by decide

theorem test_decode_init : decode 0b100_0000000000000000_00000000#27 = .instr .init := by decide

theorem test_decode_close : decode 0b101_0000000000000000_00000000#27 = .instr .close := by decide

/-- V-DECODE: `0x7FFFFFF`. -/
theorem test_decode_reserved : decode 0b111_1111111111111111_11111111#27 = .refused .reservedKind := by decide

/-- V-DECODE: `0x4010200`. -/
theorem test_decode_unused : decode 0b100_0000000100000010_00000000#27 = .refused .nonzeroUnusedField := by decide

/-- R69: the words of `FB` and of `WR 0x0102, 0x31`. -/
theorem test_encode : encode .fb = 0x2000000#27 ∧ encode (.wr 0x0102#16 0x31#8) = 0x1010231#27 := by decide

theorem test_decodeTableWord :
    decodeTableWord 32 0x1010231 = some (.wr 0x0102#16 0x31#8) ∧ decodeTableWord 32 0x6000000 = none ∧
      decodeTableWord 32 0x8000000 = none := by decide

/-! ### One step of each operation -/

/-- V-READ: `RD 0x0101` from S0 returns 0xDF. -/
theorem test_rd_index1 :
    (nextOf (step (s0.pushOp 0x0010100#27))).map (·.replies) = some [.success, .byte 0xDF#8] := by decide

/-- V-READ: `RD 0x1102` from S0 returns 0x3E, the upper bits being ignored. -/
theorem test_rd_alias :
    (nextOf (step (s0.pushOp 0x0110200#27))).map (·.replies) = some [.success, .byte 0x3E#8] := by decide

/-- V-WRITE-ACCEPTED: 0x4B attaches on channel 4. -/
theorem test_wr_attach : nextOf (step (s0.pushOp 0x101024B#27)) = some (written 0x4B#8) ∧
    (written 0x4B#8).mapOut = some 0x1234 ∧ (written 0x4B#8).dma = 4#3 := by decide

/-- V-WRITE-IGNORED: `0x1110201` differs from `CFG_PORT` in bit 12 alone. -/
theorem test_wr_ignored : nextOf (step (s0.pushOp 0x1110201#27)) = some s0 := by decide

/-- V-FEEDBACK: after `WR 0x0102, 0xFE` the answer is 0. -/
theorem test_fb_zero :
    (nextOf (step ((written 0xFE#8).pushOp 0x2000000#27))).map (·.replies) = some [.success, .bit false] := by decide

/-- V-FEEDBACK: after `WR 0x0102, 0x01` the answer is 1. -/
theorem test_fb_one :
    (nextOf (step ((written 0x01#8).pushOp 0x2000000#27))).map (·.replies) = some [.success, .bit true] := by decide

/-- V-RESET: after `WR 0x0102, 0x31`, RST keeps the mode byte, the attachment and the channel. -/
theorem test_rst_keeps :
    (nextOf (step ((written 0x31#8).pushOp 0x3000000#27))).map (fun t => (t.cfg[2], t.att, t.dma)) =
      some (0x31#8, true, 3#3) := by decide

/-- V-RESET: the events of RST are `[ER]`. -/
theorem test_rst_event :
    (nextOf (step (s0.pushOp 0x3000000#27))).map (·.trace) = some (initEvents adapter ++ [.engineReset]) := by decide

/-- V-INIT with `init_ok = 1`: S0, but for the draw counter. -/
theorem test_init_success : (State.powerOnOf adapter).initWith true = { s0 with draws := 0 } := by decide

/-- V-INIT with `init_ok = 0`: no instance and no event. -/
theorem test_init_failure :
    ((State.powerOnOf adapter).initWith false).live = false ∧ ((State.powerOnOf adapter).initWith false).trace = [] := by
  decide

/-- V-CLOSE: after `WR 0x0102, 0x01`, the engine stays mapped and no event is emitted. -/
theorem test_close_keeps_map :
    (nextOf (step ((written 0x01#8).pushOp 0x5000000#27))).map (fun t => (t.live, t.mapOut, t.trace)) =
      some (false, some 0x1234, (written 0x01#8).trace) := by decide

/-- V-CLOSE: READ after CLOSE is nomove, and so is INIT of a live instance. -/
theorem test_nomove :
    refusalOf? (step (closed.pushOp 0x0010200#27)) = some .nomove ∧
      refusalOf? (step (s0.pushOp 0x4000000#27)) = some .nomove := by decide

/-! ### The notation -/

/-- V-PSEUDO: `ENABLE 2` is the word `0x1010221`. -/
theorem test_assemble_pseudo :
    (parseLine adapter ['E', 'N', 'A', 'B', 'L', 'E', ' ', '2']).map (·.map encode) = some [0x1010221#27] := by decide

/-- R69: a comment and a WRITE, on two lines. -/
theorem test_assemble_lines :
    assemble adapter [';', ' ', 'x', '\n', 'W', 'R', ' ', '0', 'x', '1', '0', '2', ',', ' ', '0', 'x', '3', '1', ';'] =
      some [0x1010231#27] := by decide

/-- R69: a line that ends in carriage return and newline, and a last line that ends with the text (log 17). -/
theorem test_assemble_line_ends :
    assemble adapter ['F', 'B', '\r', '\n', 'R', 'S', 'T'] = some [0x2000000#27, 0x3000000#27] := by decide

/-! ### Witnesses: states and operands that meet the hypotheses of each statement -/

theorem witness_EncodeUndoesDecode : decode 0x1010231#27 = .instr (.wr 0x0102#16 0x31#8) := by decide

theorem witness_DecoderFollowsOpcodeTable :
    decode 0x0FFFF00#27 = .instr (.rd 0xFFFF#16) ∧ opcodeRow .close ∈ opcodeTable ∧
      0x5000000#27 &&& (opcodeRow .close).mask = (opcodeRow .close).bits := by decide

theorem witness_StepRunsTheDecodedOperation :
    (s0.pushOp 0x2000000#27).ops = 0x2000000#27 :: [] ∧ decode 0x2000000#27 = .instr .fb := by decide

theorem witness_StepRefusesUndefinedWords :
    (s0.pushOp 0x6000000#27).ops = 0x6000000#27 :: [] ∧ decode 0x6000000#27 = .refused .reservedKind ∧
      (s0.pushOp 0x2000001#27).ops = 0x2000001#27 :: [] ∧ decode 0x2000001#27 = .refused .nonzeroUnusedField := by
  decide

theorem witness_StepWaitsForTheHost : s0.ops = [] := by decide

theorem witness_PlacedWordRunsNext : decodeTableWord 32 0x5000000 = some .close := by decide

theorem witness_ReadAnswersTheSelectedByte :
    s0.live = true ∧ (0xFFFF#16).toNat % 8 = (0x0007#16).toNat % 8 := by decide

theorem witness_ReadDependsOnIndexAndBytesAlone :
    s0.live = true ∧ { s0 with att := true }.live = true ∧ s0.cfg = { s0 with att := true }.cfg ∧
      (0xFFFF#16).toNat % 8 = (0x0007#16).toNat % 8 := by decide

/-- READ, FEEDBACK, RESET, CLOSE and WRITE statements that ask for a live instance alone. -/
theorem witness_live_instance : s0.live = true ∧ (written 0xFF#8).live = true := by decide

/-- The gate, at the port and at the nearest addresses that differ in one bit. -/
theorem witness_WriteIsGatedByTheFullAddress :
    s0.live = true ∧ 0x0102#16 = cfgPort s0.params ∧ 0x0103#16 ≠ cfgPort s0.params ∧
      0x8102#16 ≠ cfgPort s0.params := by decide

theorem witness_ReconfigurationOrder :
    s0.live = true ∧ (0xFE#8).getLsbD 0 = false ∧ (0x01#8).getLsbD 0 = true := by decide

theorem witness_ReconfigurationIsLevelTriggered :
    s0.live = true ∧ (written 0x71#8).live = true ∧ s0.params = (written 0x71#8).params := by decide

theorem witness_WriteKeepsIrqLineAndBase : nextOf (exec (.wr 0x0102#16 0x01#8) s0) = some (written 0x01#8) := by decide

theorem witness_ReservedAndRoutingBitsHaveNoEffect :
    s0.live = true ∧ (0x31#8).getLsbD 0 = (0xBF#8).getLsbD 0 ∧
      (0x31#8).extractLsb' 4 3 = (0xBF#8).extractLsb' 4 3 := by decide

theorem witness_ReadAfterWriteSeesTheWrite :
    nextOf (exec (.wr (cfgPort s0.params) 0xFF#8) s0) = some (written 0xFF#8) ∧ (0xFFFA#16).toNat % 8 = 2 := by decide

theorem witness_FeedbackReportsTheAttachment : s0.live = true ∧ AttachAgrees s0 :=
  ⟨by decide, fun _ => by decide⟩

theorem witness_no_instance : (State.powerOnOf adapter).live = false ∧ closed.live = false := by decide

theorem witness_CloseEndsTheInstance : (written 0x01#8).live = true ∧ (written 0x01#8).att = true := by decide

theorem witness_InitAfterCloseIsFresh : nextOf (exec .close s0) = some closed := by decide

theorem witness_OperationsStepExactlyInTheirLifecycle :
    inLifecycle .init closed ∧ inLifecycle .close s0 ∧ ¬ inLifecycle .init s0 ∧ ¬ inLifecycle (.rd 0#16) closed := by
  unfold inLifecycle
  decide

theorem witness_FrameOfReadAndFeedback :
    nextOf (exec (.rd 0x0007#16) s0) = some (s0.reply (.byte 0x00#8)) ∧
      nextOf (exec .fb s0) = some (s0.reply (.bit false)) := by decide

/-- An accepted and an ignored WRITE, and an address whose byte is not stored. -/
theorem witness_FrameOfWrite :
    nextOf (exec (.wr 0x0102#16 0x01#8) s0) = some (written 0x01#8) ∧
      ¬ (accepts s0.params 0x0102#16 = true ∧ idx 0x0103#16 = idx 0x0102#16) ∧
      nextOf (exec (.wr 0x0103#16 0x01#8) s0) = some s0 ∧ accepts s0.params 0x0103#16 = false := by decide

/-- INIT's next state exists for either value of the draw. -/
theorem witness_init_next : exec .init closed = .next closed.drawnInit :=
  execInit_eq_next.2 ⟨by decide, rfl⟩

theorem witness_FrameOfResetCloseAndInit :
    nextOf (exec .rst s0) = some (s0.emit .engineReset) ∧ nextOf (exec .close s0) = some closed := by decide

theorem witness_ModeByteAccess :
    nextOf (exec (.wr 0x0102#16 0x01#8) s0) = some (written 0x01#8) ∧ (written 0x01#8).cfg[2] ≠ s0.cfg[2] ∧
      (0x0002#16).toNat % 8 = 2 := by decide

theorem witness_EngineEventsComeFromWriteAndReset :
    Instr.rst ≠ .init ∧ nextOf (exec .rst s0) = some (s0.emit .engineReset) := by decide

/-- The last writer statements: an accepted WRITE to the top channel. -/
theorem witness_latch_writers : nextOf (exec (.wr 0x0102#16 0xFF#8) s0) = some (written 0xFF#8) := by decide

theorem witness_DeadStorageIsNeverRead : closed.live = false ∧ closed.cfg ≠ Vector.replicate 8 0#8 := by decide

theorem witness_StepKeepsAttachAgreement :
    AttachAgrees (s0.pushOp 0x1010201#27) ∧ nextOf (step (s0.pushOp 0x1010201#27)) = some (written 0x01#8) :=
  ⟨fun _ => by decide, by decide⟩

theorem witness_StepKeepsFixedBytes :
    FixedBytesHold (s0.pushOp 0x1010201#27) ∧ nextOf (step (s0.pushOp 0x1010201#27)) = some (written 0x01#8) :=
  ⟨fun _ _ _ => rfl, by decide⟩

theorem witness_StepKeepsChannelAgreement :
    ChannelAgrees (s0.pushOp 0x1010201#27) ∧ nextOf (step (s0.pushOp 0x1010201#27)) = some (written 0x01#8) :=
  ⟨fun _ => by decide, by decide⟩

theorem witness_StepKeepsOutputsMatchingTheTrace :
    OutputsMatchTrace (s0.pushOp 0x1010201#27) ∧ nextOf (step (s0.pushOp 0x1010201#27)) = some (written 0x01#8) :=
  ⟨⟨fun _ => by decide, fun _ => by decide⟩, by decide⟩

/-- The empty trace of power-on is ordered, and a step from there goes on. -/
theorem witness_StepKeepsTraceOrder :
    TraceSafe (State.powerOnOf adapter) ∧
      step ((State.powerOnOf adapter).pushOp 0x4000000#27) = .next (State.powerOnOf adapter).drawnInit :=
  ⟨⟨by simp [State.powerOnOf], by simp [State.powerOnOf]⟩,
    (runWord_instr _ test_decode_init).trans (execInit_eq_next.2 ⟨rfl, rfl⟩)⟩

theorem witness_RunAnswersFromTheLastAcceptedWrite :
    s0.live = true ∧ s0.ops = [] ∧ FixedBytesHold s0 ∧
      ∀ i ∈ [Instr.wr 0x0102#16 0x01#8, .rd 0x0102#16, .fb, .rst], staysLive i = true :=
  ⟨by decide, by decide, fun _ _ _ => rfl, by decide⟩

/-- A WRITE to the port whose bit 0 is 0, from a detached state. -/
theorem witness_StepKeepsTheEngineDetached :
    (s0.pushOp 0x10102FE#27).att = false ∧
      (∀ w rest v, (s0.pushOp 0x10102FE#27).ops = w :: rest →
        decode w = .instr (.wr (cfgPort s0.params) v) → v.getLsbD 0 = false) ∧
      nextOf (step (s0.pushOp 0x10102FE#27)) = some (written 0xFE#8) := by
  refine ⟨by decide, ?_, by decide⟩
  intro w rest v hw hd
  obtain ⟨rfl, -⟩ : 0x10102FE#27 = w ∧ _ := List.cons.inj hw
  rw [show decode 0x10102FE#27 = .instr (.wr 0x0102#16 0xFE#8) by decide] at hd
  obtain ⟨-, rfl⟩ := Instr.wr.inj (Decoded.instr.inj hd)
  decide

theorem witness_EngineStaysDetachedUntilEnabled :
    s0.live = true ∧ s0.ops = [] ∧ s0.att = false ∧
      (∀ i ∈ [Instr.wr 0x0102#16 0xFE#8, .rd 0x0102#16], staysLive i = true) ∧
      ∀ v, Instr.wr (cfgPort s0.params) v ∈ [Instr.wr 0x0102#16 0xFE#8, .rd 0x0102#16] → v.getLsbD 0 = false := by
  refine ⟨by decide, by decide, by decide, by decide, ?_⟩
  intro v hv
  simp only [List.mem_cons, Instr.wr.injEq, List.not_mem_nil, reduceCtorEq, or_false] at hv
  rw [hv.2]
  decide

end Sys2Proof.Tests
end

section
/-! The feedback output `FB` and the operation FEEDBACK that reads it (10_state.md R33, 42_lifecycle.md R110). -/

namespace Sys2Proof.Machine

/-- `exec` gives FEEDBACK its meaning `execFb`. -/
theorem exec_fb (s : State) : exec .fb s = execFb s := rfl

/-- `FB` is bit 0 of the mode byte `cfg[2]` (10_state.md R33). -/
theorem State.feedback_eq_getLsbD (s : State) : s.feedback = (s.cfg[2]).getLsbD 0 := rfl

/-- A live instance answers FEEDBACK with its feedback output and does nothing else. -/
theorem exec_fb_live {s : State} (h : s.live = true) : exec .fb s = .next (s.reply (.bit s.feedback)) := by
  rw [exec_fb]
  exact execFb_eq_next.2 ⟨h, rfl⟩

/-- Settles O26: a live instance answers its feedback output, which is bit 0 of the stored mode byte. -/
theorem feedbackAnswersBitZeroOfTheModeByte : Obligations.FeedbackAnswersBitZeroOfTheModeByte := by
  intro s hlive
  rw [exec_fb_live hlive, State.feedback_eq_getLsbD, State.reply]

end Sys2Proof.Machine
end

section
/-! Words issued by the host: the word of an operation is run as that operation (30_encoding.md R61, R62, log 1). -/

namespace Sys2Proof.Machine

/-- The decoder reads back the operation from its word (30_encoding.md R62). -/
@[simp] theorem decode_encode (i : Instr) : decode (encode i) = .instr i := by
  cases i <;> simp [encode, encodeFields, decodeFields, decodeBare]

/-- A step runs the operation whose word waits first, with the other words waiting. -/
theorem step_encode {s : State} {i : Instr} {ws : List Word} (h : s.ops = encode i :: ws) :
    step s = exec i { s with ops := ws } := by
  rw [step_cons h, runWord_instr _ (decode_encode i)]

end Sys2Proof.Machine
end

section
/-! READ: which byte an address selects, and that reading has no side effect (20_memory.md R41, R47). -/

namespace Sys2Proof.Machine

/-- `exec` gives READ its meaning `execRd`. -/
theorem exec_rd (a : Addr) (s : State) : exec (.rd a) s = execRd a s := rfl

/-- A live instance answers READ with the selected byte and does nothing else. -/
theorem exec_rd_live {s : State} (a : Addr) (h : s.live = true) :
    exec (.rd a) s = .next (s.reply (.byte (s.readAddr a))) := by
  rw [exec_rd]
  exact execRd_eq_next.2 ⟨h, rfl⟩

/-- The byte that an address selects is the one at the address modulo 8. -/
theorem State.readAddr_eq_getElem (s : State) (a : Addr) :
    s.readAddr a = s.cfg[a.toNat % 8]'(Nat.mod_lt _ (Nat.succ_pos 7)) := by
  simp only [State.readAddr, State.byteAt, idx_toNat]

/-- Addresses that are equal modulo 8 have the same index. -/
theorem idx_eq_of_mod_eq {a b : Addr} (h : a.toNat % 8 = b.toNat % 8) : idx a = idx b :=
  BitVec.eq_of_toNat_eq (by rw [idx_toNat, idx_toNat, h])

/-- READ sees of its address nothing but the index. -/
theorem exec_rd_congr {a b : Addr} (s : State) (h : idx a = idx b) : exec (.rd a) s = exec (.rd b) s := by
  simp only [exec_rd, execRd, State.readAddr, h]

/-- Handing back a result changes no byte that a read selects. -/
@[simp] theorem State.reply_readAddr (s : State) (r : Reply) (a : Addr) : (s.reply r).readAddr a = s.readAddr a := rfl

/-- READs put before the operations waiting run to their end, each answering from the state before them all. -/
theorem run_reads {s : State} (as : List Addr) (h : s.live = true) :
    core.run as.length { s with ops := as.map (fun a => encode (.rd a)) ++ s.ops } =
      .next { s with replies := s.replies ++ as.map fun a => .byte (s.readAddr a) } := by
  induction as generalizing s with
  | nil => simp
  | cons a as ih =>
    let t := s.reply (.byte (s.readAddr a))
    let later := as.map fun b => encode (.rd b)
    have hstep : step { s with ops := encode (.rd a) :: (later ++ s.ops) } = .next { t with ops := later ++ t.ops } :=
      (step_encode rfl).trans (exec_rd_live a h)
    have hrest : core.run as.length { t with ops := later ++ t.ops } =
        .next { t with replies := t.replies ++ as.map fun b => .byte (t.readAddr b) } := ih h
    refine (run_succ_of_next as.length hstep).trans (hrest.trans ?_)
    simp [t]

/-- Settles O13: the index of an address is its value modulo 8, and READ depends on its address by the index alone. -/
theorem readAnswersTheSelectedByte : Obligations.ReadAnswersTheSelectedByte := by
  constructor
  · intro s a hlive
    rw [exec_rd_live a hlive, State.readAddr_eq_getElem, State.reply]
  · intro s a b hab
    exact exec_rd_congr s (idx_eq_of_mod_eq hab)

/-- Settles O15, by induction on the list of READs. -/
theorem readsHaveNoSideEffects : Obligations.ReadsHaveNoSideEffects := by
  intro s as hlive
  simpa only [State.readAddr_eq_getElem] using run_reads as hlive

end Sys2Proof.Machine
end

section
/-! WRITE: the gate, each field after it, and that it is idempotent but in the trace (20_memory.md R42, R48). -/

namespace Sys2Proof.Machine

open Sys2Proof.Safety

/-- `exec` gives WRITE its meaning `execWr`. -/
theorem exec_wr (a : Addr) (v : Byte) (s : State) : exec (.wr a v) s = execWr a v s := rfl

/-- A live instance runs WRITE by its body. -/
theorem exec_wr_live {s : State} (a : Addr) (v : Byte) (h : s.live = true) :
    exec (.wr a v) s = .next (s.writeAddr a v) := by
  rw [exec_wr]
  exact execWr_eq_next.2 ⟨h, rfl⟩

/-- The events of an accepted WRITE: always Detach and SetDma, and Attach by bit 0 (41_write.md R92). -/
theorem writeEvents_eq (p : Config.Params) (v : Byte) :
    writeEvents p v = .detach :: .setDma (ch v) :: (if en v then [.attach p.baseAddr] else []) := by
  cases h : en v <;> simp [writeEvents, h]

/-- An accepted WRITE emits two or three events. -/
theorem writeEvents_length (p : Config.Params) (v : Byte) :
    (writeEvents p v).length = 2 ∨ (writeEvents p v).length = 3 := by
  cases h : en v <;> simp [writeEvents, h]

/-- The body of WRITE field by field, for every address (41_write.md R90, R91). -/
theorem State.writeAddr_eq (s : State) (a : Addr) (v : Byte) :
    s.writeAddr a v =
      { s with
        cfg := if a = cfgPort s.params then s.cfg.set 2 v else s.cfg
        att := if a = cfgPort s.params then en v else s.att
        dma := if a = cfgPort s.params then ch v else s.dma
        trace := s.trace ++ eventsOf s.params (.wr a v) } := by
  by_cases ha : a = cfgPort s.params
  · rw [State.writeAddr_port v ha]
    simp [ha, eventsOf, State.setByte, modeIndex]
  · rw [State.writeAddr_other v ha]
    simp [ha, eventsOf]

section Fields

variable (s : State) (a : Addr) (v : Byte)

theorem State.writeAddr_cfg :
    (s.writeAddr a v).cfg = if a = cfgPort s.params then s.cfg.set 2 v else s.cfg := by
  rw [State.writeAddr_eq]

theorem State.writeAddr_att : (s.writeAddr a v).att = if a = cfgPort s.params then en v else s.att := by
  rw [State.writeAddr_eq]

theorem State.writeAddr_dma : (s.writeAddr a v).dma = if a = cfgPort s.params then ch v else s.dma := by
  rw [State.writeAddr_eq]

theorem State.writeAddr_trace : (s.writeAddr a v).trace = s.trace ++ eventsOf s.params (.wr a v) := by
  rw [State.writeAddr_eq]

@[simp] theorem State.writeAddr_live : (s.writeAddr a v).live = s.live := by rw [State.writeAddr_eq]

@[simp] theorem State.writeAddr_params : (s.writeAddr a v).params = s.params := by rw [State.writeAddr_eq]

@[simp] theorem State.writeAddr_ops : (s.writeAddr a v).ops = s.ops := by rw [State.writeAddr_eq]

@[simp] theorem State.writeAddr_replies : (s.writeAddr a v).replies = s.replies := by rw [State.writeAddr_eq]

/-- The mode byte after a WRITE (20_memory.md R50). -/
theorem State.writeAddr_modeByte : (s.writeAddr a v).cfg[2] = modeAfter s.params s.cfg[2] (.wr a v) := by
  simp only [State.writeAddr_cfg, modeAfter]
  split <;> simp

/-- A WRITE changes no byte but the mode byte (10_state.md R21, R22, R24, R25). -/
theorem State.writeAddr_byteAt_other {k : Bits3} (hk : k ≠ modeIndex) :
    (s.writeAddr a v).byteAt k = s.byteAt k := by
  by_cases ha : a = cfgPort s.params
  · rw [State.writeAddr_port v ha]
    exact State.setByte_byteAt_other s v hk
  · rw [State.writeAddr_other v ha]

end Fields

/-- Settles O16: the gate compares the full address, and the index of every port is that of the mode byte. -/
theorem writeIsGatedByTheFullAddress : Obligations.WriteIsGatedByTheFullAddress := by
  constructor
  · intro s a v hlive
    rw [exec_wr_live a v hlive]
    by_cases ha : a = cfgPort s.params
    · rw [if_pos ha, State.writeAddr_port v ha, writeEvents_eq]
      rfl
    · rw [if_neg ha, State.writeAddr_other v ha]
  · intro p
    rw [← idx_toNat, idx_cfgPort]
    rfl

/-- Settles O22: what a WRITE to the port leaves in `cfg[2]`, `att` and `dma`, and what it emits, is a function of its
value alone, and the port is the same after it. -/
theorem writeIsIdempotentButInTheTrace : Obligations.WriteIsIdempotentButInTheTrace := by
  intro s a v hlive
  constructor
  · intro ha
    rw [exec_wr_live a v hlive, State.writeAddr_other v ha]
  · intro ha
    let t := s.writeAddr a v
    have htlive : t.live = true := by simpa [t] using hlive
    refine ⟨t, t.writeAddr a v, writeEvents s.params v, exec_wr_live a v hlive, exec_wr_live a v htlive, ?_⟩
    have hnew : eventsOf s.params (.wr a v) = writeEvents s.params v := if_pos ha
    have hmode : t.cfg[2] = v := (s.writeAddr_modeByte a v).trans (if_pos ha)
    refine ⟨hmode, ?_, ?_, writeEvents_length s.params v, ?_⟩
    · simp [t, State.writeAddr_att, ha, en]
    · simp [t, State.writeAddr_dma, ha, ch]
    · simp [t, State.writeAddr_cfg, State.writeAddr_att, State.writeAddr_dma, State.writeAddr_trace, ha, ← hnew]

end Sys2Proof.Machine
end

section
/-! Runs of a live instance: READ, WRITE, FEEDBACK and RESET answer from the last accepted WRITE (20_memory.md R50). -/

namespace Sys2Proof.Machine

open Sys2Proof.Safety

/-- `exec` gives RESET its meaning `execRst`. -/
theorem exec_rst (s : State) : exec .rst s = execRst s := rfl

/-- A live instance runs RESET by forwarding it to the engine. -/
theorem exec_rst_live {s : State} (h : s.live = true) : exec .rst s = .next (s.emit .engineReset) := by
  rw [exec_rst]
  exact execRst_eq_next.2 ⟨h, rfl⟩

/-- The fixed bytes hold where every byte but the mode byte is that of a live state in which they hold. -/
theorem fixedBytesHold_of_byteAt_eq {s t : State} (h : FixedBytesHold s) (hlive : s.live = true)
    (hbytes : ∀ k, k ≠ modeIndex → t.byteAt k = s.byteAt k) : FixedBytesHold t :=
  fun _ k hk => (hbytes k hk).trans (h hlive k hk)

/-- With the fixed bytes of INIT a READ can answer only the mode byte or a byte of INIT. -/
theorem State.readAddr_of_fixedBytes {s : State} (a : Addr) (hlive : s.live = true) (h : FixedBytesHold s) :
    s.readAddr a = if idx a = modeIndex then s.cfg[2] else resetCfg[(idx a).toNat]'((idx a).isLt) := by
  by_cases ha : idx a = modeIndex
  · rw [if_pos ha, State.readAddr, ha]
    rfl
  · rw [if_neg ha]
    exact h hlive (idx a) ha

/-- The answers to a sequence are those to its first operation and those to the rest from the mode byte it leaves. -/
theorem answers_cons (p : Config.Params) (m : Byte) (i : Instr) (is : List Instr) :
    answers p m (i :: is) = answers p m [i] ++ answers p (modeAfter p m i) is := by
  cases i <;> rfl

/-- What 20_memory.md R50 asks of a run from `s` that took the words of `is` and ended in `t`. -/
structure AnswersFromLastWrite (s : State) (is : List Instr) (t : State) : Prop where
  ops : s.ops = is.map encode ++ t.ops
  live : t.live = true
  params : t.params = s.params
  fixed : FixedBytesHold t
  replies : t.replies = s.replies ++ answers s.params s.cfg[2] is
  modeByte : t.cfg[2] = lastAccepted s.params s.cfg[2] is
  trace : t.trace = s.trace ++ is.flatMap (eventsOf s.params)

/-- The run of no operation. -/
theorem AnswersFromLastWrite.nil {s : State} (hlive : s.live = true) (hfixed : FixedBytesHold s) :
    AnswersFromLastWrite s [] s where
  ops := rfl
  live := hlive
  params := rfl
  fixed := hfixed
  replies := (List.append_nil _).symm
  modeByte := rfl
  trace := (List.append_nil _).symm

/-- The run of one operation followed by the run of others. -/
theorem AnswersFromLastWrite.cons {s t u : State} {i : Instr} {is : List Instr}
    (hfirst : AnswersFromLastWrite s [i] t) (hrest : AnswersFromLastWrite t is u) :
    AnswersFromLastWrite s (i :: is) u where
  ops := by rw [hfirst.ops, hrest.ops]; rfl
  live := hrest.live
  params := hrest.params.trans hfirst.params
  fixed := hrest.fixed
  replies := by
    rw [hrest.replies, hfirst.replies, hfirst.params, hfirst.modeByte, List.append_assoc, answers_cons _ _ i is]
    rfl
  modeByte := by rw [hrest.modeByte, hfirst.params, hfirst.modeByte]; rfl
  trace := by rw [hrest.trace, hfirst.trace, hfirst.params]; simp

/-- One step of a live instance that runs READ, WRITE, FEEDBACK or RESET. -/
theorem step_answersFromLastWrite {s : State} {i : Instr} {ws : List Word} (hops : s.ops = encode i :: ws)
    (hlive : s.live = true) (hfixed : FixedBytesHold s) (hi : staysLive i = true) :
    ∃ t, step s = .next t ∧ AnswersFromLastWrite s [i] t := by
  rw [step_encode hops]
  cases i with
  | rd a =>
    refine ⟨_, exec_rd_live a hlive, hops, hlive, rfl, hfixed, ?_, rfl, (List.append_nil _).symm⟩
    exact congrArg (fun b => s.replies ++ [.byte b]) (s.readAddr_of_fixedBytes a hlive hfixed)
  | wr a v =>
    let s' : State := { s with ops := ws }
    exact ⟨s'.writeAddr a v, exec_wr_live a v hlive,
      { ops := by simpa [s'] using hops
        live := by simpa [s'] using hlive
        params := by simp [s']
        fixed := fixedBytesHold_of_byteAt_eq hfixed hlive fun k hk => s'.writeAddr_byteAt_other a v hk
        replies := by simp [s', answers]
        modeByte := s'.writeAddr_modeByte a v
        trace := by simp [s', State.writeAddr_trace] }⟩
  | fb => exact ⟨_, exec_fb_live hlive, hops, hlive, rfl, hfixed, rfl, rfl, (List.append_nil _).symm⟩
  | rst => exact ⟨_, exec_rst_live hlive, hops, hlive, rfl, hfixed, (List.append_nil _).symm, rfl, rfl⟩
  | init => cases hi
  | close => cases hi

/-- Any sequence of READ, WRITE, FEEDBACK and RESET that waits first is run to its end. -/
theorem run_answersFromLastWrite {s : State} {is : List Instr} {ws : List Word} (hops : s.ops = is.map encode ++ ws)
    (hlive : s.live = true) (hfixed : FixedBytesHold s) (his : ∀ i ∈ is, staysLive i = true) :
    ∃ t, core.run is.length s = .next t ∧ AnswersFromLastWrite s is t := by
  induction is generalizing s with
  | nil => exact ⟨s, rfl, .nil hlive hfixed⟩
  | cons i is ih =>
    obtain ⟨hi, his⟩ := List.forall_mem_cons.1 his
    obtain ⟨t, hstep, hfirst⟩ := step_answersFromLastWrite hops hlive hfixed hi
    have htops : t.ops = is.map encode ++ ws := (List.cons.inj (hfirst.ops.symm.trans hops)).2
    obtain ⟨u, hrun, hrest⟩ := ih htops hfirst.live hfirst.fixed his
    exact ⟨u, (run_succ_of_next is.length hstep).trans hrun, hfirst.cons hrest⟩

/-- Settles O53, by induction on the operations: each step answers from the mode byte and leaves the fixed bytes. -/
theorem runAnswersFromTheLastAcceptedWrite : Obligations.RunAnswersFromTheLastAcceptedWrite := by
  intro s is hlive hnone hfixed his
  have hops : (s.issue (is.map encode)).ops = is.map encode ++ [] := by simp [hnone]
  obtain ⟨t, hrun, h⟩ := run_answersFromLastWrite hops hlive hfixed his
  have htops : t.ops = [] := List.append_cancel_left (h.ops.symm.trans hops)
  exact ⟨t, hrun, htops, h.live, h.fixed, h.replies, h.modeByte, h.trace⟩

end Sys2Proof.Machine
end

section
/-! READ's answer is a function of the address's index and the eight bytes (40_read.md R81). -/

namespace Sys2Proof.Machine

/-- States with the same bytes select the same byte for addresses with the same index. -/
theorem State.readAddr_congr_idx {s t : State} {a b : Addr} (hcfg : t.cfg = s.cfg) (hidx : idx b = idx a) :
    t.readAddr b = s.readAddr a :=
  calc t.readAddr b
    _ = s.readAddr b := State.readAddr_congr hcfg b
    _ = s.readAddr a := congrArg s.byteAt hidx

/-- Settles O14: the common answer is the byte that either state's address selects. -/
theorem readDependsOnIndexAndBytesAlone : Obligations.ReadDependsOnIndexAndBytesAlone := by
  intro s t a b hs ht hcfg hmod
  have hsame : t.readAddr b = s.readAddr a := State.readAddr_congr_idx hcfg.symm (idx_eq_of_mod_eq hmod).symm
  refine ⟨s.readAddr a, exec_rd_live a hs, ?_⟩
  rw [exec_rd_live b ht, hsame, State.reply]

end Sys2Proof.Machine
end

section
/-! WRITE: what an accepted write derives from its value, and which events a write can emit (41_write.md R91 to R95). -/

namespace Sys2Proof.Machine

open Sys2Proof.Safety

/-- WRITE answers a next state only in a live instance, and then the one its body gives. -/
theorem exec_wr_eq_next {a : Addr} {v : Byte} {s t : State} :
    exec (.wr a v) s = .next t ↔ s.live = true ∧ t = s.writeAddr a v := by
  rw [exec_wr, execWr_eq_next]

/-- A live instance accepts every value written to its port, whatever it holds (41_write.md R94). -/
theorem exec_wr_port {s : State} (v : Byte) (h : s.live = true) :
    exec (.wr (cfgPort s.params) v) s =
      .next { s.setByte modeIndex v with att := en v, dma := ch v, trace := s.trace ++ writeEvents s.params v } := by
  rw [exec_wr_live _ v h, State.writeAddr_port v rfl]

/-- The events of a detaching WRITE (41_write.md R92). -/
theorem writeEvents_of_not_en (p : Config.Params) {v : Byte} (h : en v = false) :
    writeEvents p v = [.detach, .setDma (ch v)] := by
  simp [writeEvents, h]

/-- The events of an attaching WRITE (41_write.md R92). -/
theorem writeEvents_of_en (p : Config.Params) {v : Byte} (h : en v = true) :
    writeEvents p v = [.detach, .setDma (ch v), .attach p.baseAddr] := by
  simp [writeEvents, h]

/-- A WRITE emits nothing but Detach, SetDma of its channel and Attach of the base (41_write.md R92, R95). -/
theorem mem_eventsOf_wr {p : Config.Params} {a : Addr} {v : Byte} {e : Event} (h : e ∈ eventsOf p (.wr a v)) :
    e = .detach ∨ e = .setDma (ch v) ∨ e = .attach p.baseAddr := by
  by_cases ha : a = cfgPort p
  · have hnew : eventsOf p (.wr a v) = writeEvents p v := if_pos ha
    rw [hnew, writeEvents_eq, List.mem_cons, List.mem_cons, List.mem_ite_nil_right, List.mem_singleton] at h
    exact h.imp_right (Or.imp_right And.right)
  · have hnew : eventsOf p (.wr a v) = [] := if_neg ha
    rw [hnew] at h
    cases h

/-- Settles O19: the attachment and the channel are fields of the value, and the events are those of the value and the
adapter. -/
theorem reconfigurationIsLevelTriggered : Obligations.ReconfigurationIsLevelTriggered := by
  intro s₁ s₂ v h₁ h₂ hparams
  refine ⟨_, _, _, exec_wr_port v h₁, exec_wr_port v h₂, rfl, rfl,
    congrArg (s₁.trace ++ ·) (writeEvents_eq s₁.params v), ?_⟩
  rw [hparams]
  exact congrArg (s₂.trace ++ ·) (writeEvents_eq s₂.params v)

/-- Settles O17: the gate rejects every address but the port. -/
theorem ignoredWriteChangesNothing : Obligations.IgnoredWriteChangesNothing := by
  intro s a v hlive ha
  rw [exec_wr_live a v hlive, State.writeAddr_other v ha]

/-- Settles O18: the appended events are those of the value, which depend on bit 0 for the Attach alone. -/
theorem reconfigurationOrder : Obligations.ReconfigurationOrder := by
  intro s v hlive
  refine ⟨_, exec_wr_port v hlive, ?_, ?_⟩
  · intro hv
    exact congrArg (s.trace ++ ·) (writeEvents_of_not_en s.params hv)
  · intro hv
    exact congrArg (s.trace ++ ·) (writeEvents_of_en s.params hv)

/-- Settles O20: the accepted write has no condition on its value, and it stores the value in the mode byte. -/
theorem everyValueIsAccepted : Obligations.EveryValueIsAccepted := by
  intro s v hlive
  exact ⟨_, exec_wr_port v hlive, s.setByte_byteAt_same modeIndex v, rfl, rfl⟩

/-- Settles O21: no operation writes the parameters, and the three kinds of event of a WRITE include neither SetIrq nor
SetBase, nor an Attach of another address. -/
theorem writeKeepsIrqLineAndBase : Obligations.WriteKeepsIrqLineAndBase := by
  intro s t a v h
  obtain ⟨-, rfl⟩ := exec_wr_eq_next.1 h
  have hparams : (s.writeAddr a v).params = s.params := s.writeAddr_params a v
  refine ⟨by rw [hparams], by rw [hparams], eventsOf s.params (.wr a v), s.writeAddr_trace a v, ?_, ?_, ?_⟩
  · intro x hx
    simpa using mem_eventsOf_wr hx
  · intro n hn
    simpa using mem_eventsOf_wr hn
  · intro x hx
    simpa using mem_eventsOf_wr hx

end Sys2Proof.Machine
end

section
/-! The events an operation other than INIT sends the engine (60_exceptions.md R138). -/

namespace Sys2Proof.Machine

open Sys2Proof.Safety

/-- `exec` gives CLOSE its meaning `execClose`. -/
theorem exec_close (s : State) : exec .close s = execClose s := rfl

/-- An operation other than INIT appends to the trace exactly the events of a live instance's operation. -/
theorem exec_trace_of_ne_init {i : Instr} {s t : State} (hi : i ≠ .init) (h : exec i s = .next t) :
    t.trace = s.trace ++ eventsOf s.params i := by
  cases i with
  | rd a =>
    obtain ⟨-, rfl⟩ := execRd_eq_next.1 ((exec_rd a s).symm.trans h)
    exact (List.append_nil _).symm
  | wr a v =>
    obtain ⟨-, rfl⟩ := exec_wr_eq_next.1 h
    exact s.writeAddr_trace a v
  | fb =>
    obtain ⟨-, rfl⟩ := execFb_eq_next.1 ((exec_fb s).symm.trans h)
    exact (List.append_nil _).symm
  | rst =>
    obtain ⟨-, rfl⟩ := execRst_eq_next.1 ((exec_rst s).symm.trans h)
    exact s.emit_trace .engineReset
  | init => exact absurd rfl hi
  | close =>
    obtain ⟨-, rfl⟩ := execClose_eq_next.1 ((exec_close s).symm.trans h)
    exact (List.append_nil _).symm

/-- The events of an operation of a live instance are those of a WRITE, or RESET's EngineReset. -/
theorem mem_eventsOf {p : Config.Params} {i : Instr} {e : Event} (h : e ∈ eventsOf p i) :
    (∃ a v, i = .wr a v ∧ (e = .detach ∨ e = .setDma (ch v) ∨ e = .attach p.baseAddr)) ∨
      (i = .rst ∧ e = .engineReset) := by
  cases i with
  | wr a v => exact .inl ⟨a, v, rfl, mem_eventsOf_wr h⟩
  | rst => exact .inr ⟨rfl, List.mem_singleton.1 h⟩
  | rd a => cases h
  | fb => cases h
  | init => cases h
  | close => cases h

/-- Settles O42: the events appended are those of the operation, and only WRITE and RESET have any. -/
theorem engineEventsComeFromWriteAndReset : Obligations.EngineEventsComeFromWriteAndReset := by
  intro s t i hi h
  refine ⟨eventsOf s.params i, exec_trace_of_ne_init hi h, ?_⟩
  intro e he
  obtain ⟨a, v, rfl, hkind⟩ | hreset := mem_eventsOf he
  · exact .inl ⟨⟨a, v, rfl⟩, hkind.imp_right (Or.imp (⟨_, ·⟩) (⟨_, ·⟩))⟩
  · exact .inr hreset

end Sys2Proof.Machine
end

section
/-! The notional word and its operation determine each other, and the words of the opcode table are those of the
operations (30_encoding.md R61, R62). -/

namespace Sys2Proof

open Sys2Proof.Machine

/-- The decoder answers an operation only to its own fields. -/
theorem encodeFields_of_decodeFields {f : OpFields} {i : Instr} (h : decodeFields f = .instr i) :
    encodeFields i = f := by
  obtain ⟨k, a, d⟩ := f
  unfold decodeFields at h
  split at h
  case isTrue hk =>
    split at h
    case isTrue hd =>
      obtain rfl := Decoded.instr.inj h
      simp_all [encodeFields]
    case isFalse => cases h
  split at h
  case isTrue hk =>
    obtain rfl := Decoded.instr.inj h
    simp_all [encodeFields]
  -- Each of the four kinds without operands.
  iterate 4
    split at h
    case isTrue hk =>
      obtain ⟨ha, hd, rfl⟩ := decodeBare_eq_instr.1 h
      simp_all [encodeFields]
  cases h

/-- A word that decodes is the word of what it decodes to. -/
theorem encode_of_decode {w : Word} {i : Instr} (h : decode w = .instr i) : encode i = w := by
  rw [encode, encodeFields_of_decodeFields h, wordOf_fieldsOf]

/-- Settles O1: packing loses no field, and the decoder reads each kind back. -/
theorem decodeUndoesEncode : Obligations.DecodeUndoesEncode :=
  decode_encode

/-- Settles O2: the fields of the word are those of the operation, and the fields are the whole word. -/
theorem encodeUndoesDecode : Obligations.EncodeUndoesDecode :=
  fun _ _ => encode_of_decode

/-! ### The opcode table -/

/-- Masking a word masks each of its fields. -/
theorem fieldsOf_and (w m : Word) :
    fieldsOf (w &&& m) =
      ⟨(fieldsOf w).kind &&& (fieldsOf m).kind, (fieldsOf w).addr &&& (fieldsOf m).addr,
        (fieldsOf w).data &&& (fieldsOf m).data⟩ := by
  simp only [fieldsOf, BitVec.extractLsb'_and]

/-- Two words are the same exactly if their fields are. -/
theorem fieldsOf_inj {w u : Word} : fieldsOf w = fieldsOf u ↔ w = u :=
  ⟨fun h => by rw [← wordOf_fieldsOf w, h, wordOf_fieldsOf], congrArg fieldsOf⟩

/-- The bits of each field that an operation's row fixes: all of them but those of an operand. -/
def fixedFields : Instr → OpFields
  | .rd _ => ⟨BitVec.allOnes 3, 0#16, BitVec.allOnes 8⟩
  | .wr _ _ => ⟨BitVec.allOnes 3, 0#16, 0#8⟩
  | .fb | .rst | .init | .close => ⟨BitVec.allOnes 3, BitVec.allOnes 16, BitVec.allOnes 8⟩

theorem fieldsOf_mask (i : Instr) : fieldsOf (opcodeRow i).mask = fixedFields i := by
  cases i <;> simp only [opcodeRow, fixedFields] <;> decide

theorem fieldsOf_bits (i : Instr) : fieldsOf (opcodeRow i).bits = ⟨(encodeFields i).kind, 0#16, 0#8⟩ := by
  cases i <;> simp only [opcodeRow, encodeFields] <;> decide

/-- A word matches an operation's row exactly if it has the operation's kind and zero where the row fixes a bit. -/
theorem and_mask_eq_bits_iff {w : Word} {i : Instr} :
    w &&& (opcodeRow i).mask = (opcodeRow i).bits ↔
      (fieldsOf w).kind &&& (fixedFields i).kind = (encodeFields i).kind ∧
        (fieldsOf w).addr &&& (fixedFields i).addr = 0#16 ∧ (fieldsOf w).data &&& (fixedFields i).data = 0#8 := by
  rw [← fieldsOf_inj, fieldsOf_and, fieldsOf_mask, fieldsOf_bits, OpFields.mk.injEq]

/-- The words that match an operation's row are those of the operations with that row. -/
theorem and_mask_eq_bits_iff_exists_encode {w : Word} {i : Instr} :
    w &&& (opcodeRow i).mask = (opcodeRow i).bits ↔ ∃ j, encode j = w ∧ opcodeRow j = opcodeRow i := by
  constructor
  · intro h
    obtain ⟨k, a, d, rfl⟩ : ∃ k a d, w = wordOf ⟨k, a, d⟩ := ⟨_, _, _, (wordOf_fieldsOf w).symm⟩
    rw [and_mask_eq_bits_iff, fieldsOf_wordOf] at h
    obtain ⟨hk, ha, hd⟩ := h
    cases i with
    | rd _ => exact ⟨.rd a, by simp_all [encode, encodeFields, fixedFields, -BitVec.reduceAllOnes], rfl⟩
    | wr _ _ => exact ⟨.wr a d, by simp_all [encode, encodeFields, fixedFields, -BitVec.reduceAllOnes], rfl⟩
    | fb => exact ⟨.fb, by simp_all [encode, encodeFields, fixedFields, -BitVec.reduceAllOnes], rfl⟩
    | rst => exact ⟨.rst, by simp_all [encode, encodeFields, fixedFields, -BitVec.reduceAllOnes], rfl⟩
    | init => exact ⟨.init, by simp_all [encode, encodeFields, fixedFields, -BitVec.reduceAllOnes], rfl⟩
    | close => exact ⟨.close, by simp_all [encode, encodeFields, fixedFields, -BitVec.reduceAllOnes], rfl⟩
  · rintro ⟨j, rfl, hrow⟩
    rw [← hrow, and_mask_eq_bits_iff, encode, fieldsOf_wordOf]
    cases j <;> simp [fixedFields, encodeFields]

/-- Settles O3: an operation's row is that of its constructor, and what matches a row is the word of an operation of the
row, which the decoder reads back. -/
theorem decoderFollowsOpcodeTable : Obligations.DecoderFollowsOpcodeTable := by
  constructor
  · intro w i hw
    constructor
    · cases i <;> simp [opcodeTable, opcodeRow]
    · exact and_mask_eq_bits_iff_exists_encode.2 ⟨i, encode_of_decode hw, rfl⟩
  · intro w r hr hw
    obtain ⟨i, rfl⟩ : ∃ i, opcodeRow i = r := by
      simp only [opcodeTable, List.mem_cons, List.not_mem_nil, or_false] at hr
      obtain rfl | rfl | rfl | rfl | rfl | rfl := hr <;> exact ⟨_, rfl⟩
    obtain ⟨j, rfl, hrow⟩ := and_mask_eq_bits_iff_exists_encode.1 hw
    exact ⟨j, decode_encode j, hrow⟩

/-! ### Refused words -/

theorem fieldsOf_kind_toNat (w : Word) : (fieldsOf w).kind.toNat = w.toNat / 2 ^ 24 := by
  have hlt := w.isLt
  simp only [fieldsOf, BitVec.extractLsb'_toNat, Nat.shiftRight_eq_div_pow]
  omega

theorem fieldsOf_addr_toNat (w : Word) : (fieldsOf w).addr.toNat = w.toNat / 2 ^ 8 % 2 ^ 16 := by
  simp only [fieldsOf, BitVec.extractLsb'_toNat, Nat.shiftRight_eq_div_pow]

theorem fieldsOf_data_toNat (w : Word) : (fieldsOf w).data.toNat = w.toNat % 2 ^ 8 := by
  simp only [fieldsOf, BitVec.extractLsb'_toNat, Nat.shiftRight_zero]

/-- A kind is one of eight. -/
theorem kind_cases (k : Bits3) :
    k = 0#3 ∨ k = 1#3 ∨ k = 2#3 ∨ k = 3#3 ∨ k = 4#3 ∨ k = 5#3 ∨ k = 6#3 ∨ k = 7#3 := by
  revert k
  decide

/-- A field is nonzero exactly if its number is. -/
theorem ne_zero_iff_toNat {n : Nat} {x : BitVec n} : x ≠ 0#n ↔ x.toNat ≠ 0 := by
  rw [← BitVec.toNat_ne_iff_ne, BitVec.toNat_ofNat, Nat.zero_mod]

/-- An operation without operands is refused for a nonzero field alone. -/
@[simp] theorem decodeBare_eq_refused {f : OpFields} {i : Instr} {r : WordRefusal} :
    decodeBare f i = .refused r ↔ (f.data ≠ 0#8 ∨ f.addr ≠ 0#16) ∧ r = .nonzeroUnusedField := by
  unfold decodeBare
  split <;> rename_i h
  · simp [h]
  · have hnonzero : f.data ≠ 0#8 ∨ f.addr ≠ 0#16 := (not_and_or.1 h).symm
    simp only [Decoded.refused.injEq, hnonzero, true_and, eq_comm]

/-- READ is refused for nonzero data alone. -/
@[simp] theorem decodeFields_rd_eq_refused {a : Addr} {d : Byte} {r : WordRefusal} :
    decodeFields ⟨0#3, a, d⟩ = .refused r ↔ d ≠ 0#8 ∧ r = .nonzeroUnusedField := by
  by_cases h : d = 0#8 <;> simp [decodeFields, h, eq_comm]

/-- Fields are refused as a reserved kind exactly if their kind is above CLOSE's (30_encoding.md R63). -/
theorem decodeFields_eq_reservedKind (f : OpFields) :
    decodeFields f = .refused .reservedKind ↔ 6 ≤ f.kind.toNat := by
  obtain ⟨k, a, d⟩ := f
  obtain rfl | rfl | rfl | rfl | rfl | rfl | rfl | rfl := kind_cases k
  · simp
  all_goals simp [decodeFields]

/-- Fields are refused as a nonzero unused field exactly if one that is no operand is nonzero (30_encoding.md R63). -/
theorem decodeFields_eq_nonzeroUnusedField (f : OpFields) :
    decodeFields f = .refused .nonzeroUnusedField ↔
      (f.kind.toNat ≠ 1 ∧ f.kind.toNat < 6 ∧ f.data ≠ 0#8) ∨
        (2 ≤ f.kind.toNat ∧ f.kind.toNat < 6 ∧ f.addr ≠ 0#16) := by
  obtain ⟨k, a, d⟩ := f
  obtain rfl | rfl | rfl | rfl | rfl | rfl | rfl | rfl := kind_cases k
  · simp
  all_goals simp [decodeFields]

/-- Settles O4: the fields of a word as numbers, and the decoder's refusals by its fields. -/
theorem decoderRefusesByName : Obligations.DecoderRefusesByName := by
  intro w
  rw [← fieldsOf_kind_toNat, ← fieldsOf_addr_toNat, ← fieldsOf_data_toNat, 
    ← ne_zero_iff_toNat, ← ne_zero_iff_toNat]
  exact ⟨decodeFields_eq_reservedKind _, decodeFields_eq_nonzeroUnusedField _⟩

/-- Settles O5: each word is evaluated. -/
theorem wordsOfTheTestVectorsDecode : Obligations.WordsOfTheTestVectorsDecode := by
  unfold Obligations.WordsOfTheTestVectorsDecode
  decide

end Sys2Proof
end

section
/-! The text of an operation is cut into its tokens, and they are read back (30_encoding.md R69); the operand forms as
numbers (R65, R66); a word given as a number (log 14). -/

namespace Sys2Proof.Machine

/-- A character that belongs to a token. -/
def inToken (c : Char) : Prop :=
  ¬ (c = ' ' ∨ c = '\t' ∨ c = '\r') ∧ c ≠ ',' ∧ c ≠ ';'

theorem inToken_hexDigit (d : BitVec 4) : inToken (hexDigit d) :=
  ⟨hexDigit_not_blank d, hexDigit_ne_comma d, hexDigit_ne_semicolon d⟩

theorem inToken_zero_x : inToken '0' ∧ inToken 'x' := by
  simp [inToken]

theorem inToken_of_mem_addrText {a : Addr} : ∀ c ∈ addrText a, inToken c := by
  simp [addrText, inToken_hexDigit, inToken_zero_x]

theorem inToken_of_mem_byteText {v : Byte} : ∀ c ∈ byteText v, inToken c := by
  simp [byteText, inToken_hexDigit, inToken_zero_x]

/-- Characters of a token are added to it. -/
theorem tokensFrom_append {cs : List Char} (h : ∀ c ∈ cs, inToken c) (token rest : List Char) :
    tokensFrom token (cs ++ rest) = tokensFrom (token ++ cs) rest := by
  induction cs generalizing token with
  | nil => simp
  | cons c cs ih =>
    obtain ⟨⟨hblank, hcomma, hsemicolon⟩, hcs⟩ := List.forall_mem_cons.1 h
    simp only [List.cons_append, tokensFrom, hblank, hcomma, hsemicolon, if_false, ih hcs, List.append_assoc,
      List.nil_append]

/-- A blank ends a token. -/
theorem tokensFrom_space {token : List Char} (h : token ≠ []) (rest : List Char) :
    tokensFrom token (' ' :: rest) = token :: tokensFrom [] rest := by
  simp [tokensFrom, flushToken, h]

/-- A comma ends a token and is one. -/
theorem tokensFrom_comma {token : List Char} (h : token ≠ []) (rest : List Char) :
    tokensFrom token (',' :: rest) = token :: [','] :: tokensFrom [] rest := by
  simp [tokensFrom, flushToken, h]

/-- The last token ends with the line. -/
theorem tokensFrom_last {cs : List Char} (h : ∀ c ∈ cs, inToken c) (hne : cs ≠ []) : tokensFrom [] cs = [cs] := by
  have happend : tokensFrom [] (cs ++ []) = tokensFrom ([] ++ cs) [] := tokensFrom_append h [] []
  simpa [tokensFrom, flushToken, hne] using happend

/-- A printed address is no name. -/
theorem parseAddr_addrText (p : Config.Params) (a : Addr) : parseAddr p (addrText a) = some a := by
  rw [parseAddr, if_neg (by simp [addrText]), parseNumber_addrText]

theorem tokensFrom_rd (a : Addr) : tokensFrom [] (instrText (.rd a)) = [['R', 'D'], addrText a] := by
  have hm : ∀ c ∈ ['R', 'D'], inToken c := by simp [inToken]
  calc tokensFrom [] (['R', 'D'] ++ ' ' :: addrText a)
    _ = ['R', 'D'] :: tokensFrom [] (addrText a) := by
        rw [tokensFrom_append hm, tokensFrom_space (by simp)]; rfl
    _ = [['R', 'D'], addrText a] := by rw [tokensFrom_last inToken_of_mem_addrText (by simp [addrText])]

theorem tokensFrom_wr (a : Addr) (v : Byte) :
    tokensFrom [] (instrText (.wr a v)) = [['W', 'R'], addrText a, [','], byteText v] := by
  have hm : ∀ c ∈ ['W', 'R'], inToken c := by simp [inToken]
  calc tokensFrom [] (instrText (.wr a v))
    _ = tokensFrom [] (['W', 'R'] ++ ' ' :: (addrText a ++ ',' :: ' ' :: byteText v)) := by simp [instrText]
    _ = ['W', 'R'] :: tokensFrom [] (addrText a ++ ',' :: ' ' :: byteText v) := by
        rw [tokensFrom_append hm, tokensFrom_space (by simp)]; rfl
    _ = ['W', 'R'] :: addrText a :: [','] :: tokensFrom [] (' ' :: byteText v) := by
        rw [tokensFrom_append inToken_of_mem_addrText, tokensFrom_comma (by simp [addrText])]; rfl
    _ = [['W', 'R'], addrText a, [','], byteText v] := by
        rw [← tokensFrom_last inToken_of_mem_byteText (by simp [byteText])]; rfl

/-- Settles O7: the tokens of each operation's text, and each operand read back. -/
theorem assemblyTextRoundTrip : Obligations.AssemblyTextRoundTrip := by
  intro p i
  cases i with
  | rd a =>
    rw [parseLine, tokensFrom_rd]
    simp [parseTokens, parseUnary, parseAddr_addrText]
  | wr a v =>
    rw [parseLine, tokensFrom_wr]
    simp [parseTokens, parseAddr_addrText, parseNumber_byteText]
  | fb => rfl
  | rst => rfl
  | init => rfl
  | close => rfl

/-! ### Operand forms -/

/-- Attach = `v & 1` (30_encoding.md R66). -/
theorem en_toNat (v : Byte) : (en v).toNat = v.toNat % 2 := by
  have hbit : (en v).toNat = v.toNat / 2 ^ 0 % 2 := Nat.toNat_testBit v.toNat 0
  simpa using hbit

/-- Drive routing = `v >> 7` (30_encoding.md R66). -/
theorem drv_toNat (v : Byte) : (drv v).toNat = v.toNat / 128 := by
  have hlt := v.isLt
  have hbit : (drv v).toNat = v.toNat / 2 ^ 7 % 2 := Nat.toNat_testBit v.toNat 7
  omega

/-- The reserved bits = `(v >> 1) & 7` (30_encoding.md R66). -/
theorem rsv_toNat (v : Byte) : (rsv v).toNat = v.toNat / 2 % 8 := by
  simp [rsv, BitVec.extractLsb'_toNat, Nat.shiftRight_eq_div_pow]

/-- Settles O6: each field as a number, and a byte is the sum of its four fields. -/
theorem modeByteFieldsAreItsBits : Obligations.ModeByteFieldsAreItsBits := by
  refine ⟨fun v => ?_, idx_toNat⟩
  have hlt := v.isLt
  rw [← Bool.toNat_eq_one (b := en v), ← Bool.toNat_eq_one (b := drv v), en_toNat, drv_toNat, rsv_toNat, ch_toNat]
  omega

/-! ### Words given as numbers -/

/-- A number that decodes is the word of its operation (log 14). -/
theorem decode_of_decodeTableWord {nbits w : Nat} {i : Instr} (h : decodeTableWord nbits w = some i) :
    decode (BitVec.ofNat 27 (w % 2 ^ nbits)) = .instr i := by
  unfold decodeTableWord at h
  split at h
  case isTrue =>
    split at h
    · rename_i j hj
      rw [hj, Option.some.inj h]
    · cases h
  case isFalse => cases h

/-- Settles O11: placing the number puts its word first, and the step takes it. -/
theorem placedWordRunsNext : Obligations.PlacedWordRunsNext := by
  intro s nbits w i h
  rw [State.withFetchWord, placeWord_eq, step_pushOp]
  exact runWord_instr s (decode_of_decodeTableWord h)

end Sys2Proof.Machine
end

section
/-! Every operation is its lifecycle guard and a body (42_lifecycle.md R115); what a step refuses. -/

namespace Sys2Proof.Machine

open Sys2Proof.Safety

/-- `exec` gives INIT its meaning `execInit`. -/
theorem exec_init (s : State) : exec .init s = execInit s := rfl

/-- The state that an operation leads to where its guard lets it pass. -/
def body (i : Instr) (s : State) : State :=
  match i with
  | .rd a => s.reply (.byte (s.readAddr a))
  | .wr a v => s.writeAddr a v
  | .fb => s.reply (.bit s.feedback)
  | .rst => s.emit .engineReset
  | .init => s.drawnInit
  | .close => { s with live := false }

@[simp] theorem inLifecycle_init (s : State) : inLifecycle .init s ↔ s.live = false :=
  Iff.of_eq (if_pos rfl)

theorem inLifecycle_of_ne_init {i : Instr} (hi : i ≠ .init) (s : State) : inLifecycle i s ↔ s.live = true :=
  Iff.of_eq (if_neg hi)

/-- The guard of an operation is that of its lifecycle state. -/
theorem exec_eq_guard (i : Instr) (s : State) :
    exec i s = if i = .init then s.requireDead (body i s) else s.requireLive (body i s) := by
  cases i <;> rfl

/-- An operation in its lifecycle state runs its body. -/
theorem exec_of_inLifecycle {i : Instr} {s : State} (h : inLifecycle i s) : exec i s = .next (body i s) := by
  rw [exec_eq_guard]
  by_cases hi : i = .init
  · subst hi
    rw [if_pos rfl, State.requireDead_dead _ ((inLifecycle_init s).1 h)]
  · rw [if_neg hi, State.requireLive_live _ ((inLifecycle_of_ne_init hi s).1 h)]

/-- An operation outside its lifecycle state is refused. -/
theorem exec_of_not_inLifecycle {i : Instr} {s : State} (h : ¬ inLifecycle i s) : exec i s = .refused .nomove := by
  rw [exec_eq_guard]
  by_cases hi : i = .init
  · subst hi
    rw [inLifecycle_init, Bool.not_eq_false] at h
    rw [if_pos rfl, State.requireDead_live _ h]
  · rw [inLifecycle_of_ne_init hi, Bool.not_eq_true] at h
    rw [if_neg hi, State.requireLive_dead _ h]

/-- All that an operation which answers a next state can do. -/
theorem exec_eq_next {i : Instr} {s t : State} : exec i s = .next t ↔ inLifecycle i s ∧ t = body i s := by
  by_cases h : inLifecycle i s
  · simp [exec_of_inLifecycle h, h, eq_comm]
  · simp [exec_of_not_inLifecycle h, h]

/-- The guard looks at `live` alone. -/
theorem inLifecycle_congr {i : Instr} {s t : State} (h : t.live = s.live) : inLifecycle i t ↔ inLifecycle i s := by
  rw [inLifecycle, inLifecycle, h]

/-- Settles O34: each guard passes exactly in the operation's lifecycle state. -/
theorem operationsStepExactlyInTheirLifecycle : Obligations.OperationsStepExactlyInTheirLifecycle :=
  fun _ _ => ⟨fun h => ⟨_, exec_of_inLifecycle h⟩, exec_of_not_inLifecycle⟩

/-! ### The step -/

/-- A word that the decoder refuses is refused under the same name. -/
theorem runWord_refused {w : Word} {r : WordRefusal} (s : State) (h : decode w = .refused r) :
    runWord w s = .refused (refusalOf r) := by
  simp [runWord, h]

/-- A step runs the operation that the next word decodes to. -/
theorem step_of_decode {s : State} {w : Word} {ws : List Word} {i : Instr} (hops : s.ops = w :: ws)
    (hw : decode w = .instr i) : step s = exec i { s with ops := ws } := by
  rw [step_cons hops, runWord_instr _ hw]

/-- A step refuses the next word if the decoder does. -/
theorem step_of_decode_refused {s : State} {w : Word} {ws : List Word} {r : WordRefusal} (hops : s.ops = w :: ws)
    (hw : decode w = .refused r) : step s = .refused (refusalOf r) := by
  rw [step_cons hops, runWord_refused _ hw]

/-- A step with no word waiting waits. -/
theorem step_of_no_ops {s : State} (h : s.ops = []) : step s = .next s := by
  rw [step, State.takeOp_eq_none.2 h, waitForHost_eq]

/-- Settles O8: the step takes the first word and runs it by its decoding. -/
theorem stepRunsTheDecodedOperation : Obligations.StepRunsTheDecodedOperation :=
  fun _ _ _ _ => step_of_decode

/-- Settles O9: the step's refusal is named after the decoder's. -/
theorem stepRefusesUndefinedWords : Obligations.StepRefusesUndefinedWords :=
  fun _ _ _ hops => ⟨step_of_decode_refused hops, step_of_decode_refused hops⟩

/-- Settles O10: without a word waiting the step is the wait, which changes nothing. -/
theorem stepWaitsForTheHost : Obligations.StepWaitsForTheHost :=
  fun _ => step_of_no_ops

/-- Settles O12: a step waits, or its word is refused, or its operation's guard passes or not. -/
theorem stepAnswersNextOrANamedRefusal : Obligations.StepAnswersNextOrANamedRefusal := by
  intro s
  cases hops : s.ops with
  | nil => exact .inl ⟨s, step_of_no_ops hops⟩
  | cons w rest =>
    cases hw : decode w with
    | instr i =>
      rw [step_of_decode hops hw]
      by_cases hi : inLifecycle i { s with ops := rest }
      · exact .inl ⟨_, exec_of_inLifecycle hi⟩
      · exact .inr ⟨w, rest, rfl, .inr (.inr ⟨i, hw, hi, exec_of_not_inLifecycle hi⟩)⟩
    | refused r =>
      have hstep : step s = .refused (refusalOf r) := step_of_decode_refused hops hw
      cases r with
      | reservedKind => exact .inr ⟨w, rest, rfl, .inl ⟨hw, hstep⟩⟩
      | nonzeroUnusedField => exact .inr ⟨w, rest, rfl, .inr (.inl ⟨hw, hstep⟩)⟩

end Sys2Proof.Machine
end

section
/-! RESET, INIT and CLOSE: the next state of each (42_lifecycle.md R111 to R114), and the reset state (10_state.md
R37). -/

namespace Sys2Proof.Machine

open Sys2Proof.Safety

/-- INIT runs where there is no instance. -/
theorem exec_init_dead {s : State} (h : s.live = false) : exec .init s = .next s.drawnInit :=
  exec_of_inLifecycle ((inLifecycle_init s).2 h)

/-- CLOSE ends a live instance. -/
theorem exec_close_live {s : State} (h : s.live = true) : exec .close s = .next { s with live := false } := by
  rw [exec_close]
  exact execClose_eq_next.2 ⟨h, rfl⟩

/-- CLOSE answers a next state only in a live instance. -/
theorem exec_close_eq_next {s t : State} : exec .close s = .next t ↔ s.live = true ∧ t = { s with live := false } := by
  rw [exec_close, execClose_eq_next]

/-- INIT with a successful draw. -/
theorem State.drawnInit_of_ok {s : State} (h : Config.initOk s.draws = true) :
    s.drawnInit =
      { s with cfg := resetCfg, att := false, dma := s.params.defaultDma, live := true,
               trace := s.trace ++ initEvents s.params, replies := s.replies ++ [.success], draws := s.draws + 1 } := by
  rw [State.drawnInit_eq, if_pos h]

/-- INIT with a failing draw. -/
theorem State.drawnInit_of_not_ok {s : State} (h : Config.initOk s.draws = false) :
    s.drawnInit = { s with replies := s.replies ++ [.failure], draws := s.draws + 1 } := by
  rw [State.drawnInit_eq, h, if_neg Bool.false_ne_true]

/-- After INIT there is an instance exactly if the draw succeeded. -/
theorem State.drawnInit_live {s : State} (h : s.live = false) : s.drawnInit.live = Config.initOk s.draws := by
  cases hok : Config.initOk s.draws with
  | true => rw [State.drawnInit_of_ok hok]
  | false => rw [State.drawnInit_of_not_ok hok, h]

/-- Settles O28: RESET emits its event and does nothing else. -/
theorem resetOnlyForwardsToTheEngine : Obligations.ResetOnlyForwardsToTheEngine :=
  fun _ => exec_rst_live

/-- Settles O29: INIT passes its guard where there is no instance, and either draw gives the state named. -/
theorem initConstructsOrFails : Obligations.InitConstructsOrFails := by
  intro s hdead
  rw [exec_init_dead hdead, State.drawnInit_eq]
  rfl

/-- Settles O30: INIT of the power-on state, by the draw. -/
theorem initFromPowerOnReachesReset : Obligations.InitFromPowerOnReachesReset := by
  intro p n
  rw [exec_init_dead rfl, State.drawnInit_eq]
  rfl

/-- Settles O31: each field of the reset state. -/
theorem resetHoldsTheStatedValues : Obligations.ResetHoldsTheStatedValues :=
  ⟨rfl, rfl, rfl, rfl, rfl, rfl, rfl⟩

/-- Settles O32: CLOSE changes `live` alone, on which neither MAP nor the trace depends. -/
theorem closeEndsTheInstance : Obligations.CloseEndsTheInstance := by
  intro s hlive
  refine ⟨exec_close_live hlive, fun hatt => ⟨_, exec_close_live hlive, State.mapOut_attached hatt, rfl⟩⟩

/-- Settles O33: after CLOSE there is no instance, and a successful INIT leaves nothing of the closed one but the trace
and the model's own fields. -/
theorem initAfterCloseIsFresh : Obligations.InitAfterCloseIsFresh := by
  intro s t hclose
  obtain ⟨-, rfl⟩ := exec_close_eq_next.1 hclose
  refine ⟨_, exec_init_dead rfl, fun hlive => ?_⟩
  rw [State.drawnInit_live rfl] at hlive
  rw [State.drawnInit_of_ok hlive]
  rfl

/-- Settles O27: FEEDBACK answers bit 0 of the mode byte, which is the attachment. -/
theorem feedbackReportsTheAttachment : Obligations.FeedbackReportsTheAttachment := by
  intro s hlive hagrees
  rw [exec_fb_live hlive, State.feedback, ← hagrees hlive, State.reply]

end Sys2Proof.Machine
end

section
/-! What each operation changes: the bytes, the latches and the trace after it (10_state.md sections 1 and 2). -/

namespace Sys2Proof.Machine

open Sys2Proof.Safety

/-! ### The fields after each operation -/

/-- The bytes after a WRITE: the port's index is that of the mode byte (20_memory.md R42). -/
theorem State.writeAddr_byteAt (s : State) (a : Addr) (v : Byte) (k : Bits3) :
    (s.writeAddr a v).byteAt k = if a = cfgPort s.params ∧ k = modeIndex then v else s.byteAt k := by
  by_cases hk : k = modeIndex
  · subst hk
    by_cases ha : a = cfgPort s.params
    · rw [if_pos ⟨ha, rfl⟩, State.writeAddr_port v ha]
      exact s.setByte_byteAt_same modeIndex v
    · rw [if_neg fun h => ha h.1, State.writeAddr_other v ha]
  · rw [if_neg fun h => hk h.2, State.writeAddr_byteAt_other s a v hk]

section Init

variable {s : State} (h : s.live = false)

include h

/-- INIT writes all bytes or none (42_lifecycle.md R112, R113). -/
theorem State.drawnInit_byteAt (k : Bits3) :
    s.drawnInit.byteAt k = if s.drawnInit.live then resetCfg[k.toNat]'(k.isLt) else s.byteAt k := by
  rw [State.drawnInit_live h, State.drawnInit_eq]
  cases Config.initOk s.draws <;> rfl

theorem State.drawnInit_att : s.drawnInit.att = if s.drawnInit.live then false else s.att := by
  rw [State.drawnInit_live h, State.drawnInit_eq]
  cases Config.initOk s.draws <;> rfl

theorem State.drawnInit_dma : s.drawnInit.dma = if s.drawnInit.live then s.params.defaultDma else s.dma := by
  rw [State.drawnInit_live h, State.drawnInit_eq]
  cases Config.initOk s.draws <;> rfl

end Init

@[simp] theorem State.drawnInit_params (s : State) : s.drawnInit.params = s.params := by
  rw [State.drawnInit_eq]
  split <;> rfl

@[simp] theorem State.drawnInit_ops (s : State) : s.drawnInit.ops = s.ops := by
  rw [State.drawnInit_eq]
  split <;> rfl

/-- No operation writes the parameters (00_scope.md R5, log 9). -/
@[simp] theorem body_params (i : Instr) (s : State) : (body i s).params = s.params := by
  cases i with
  | wr a v => exact s.writeAddr_params a v
  | init => exact s.drawnInit_params
  | _ => rfl

/-- No operation takes another (20_memory.md R49). -/
@[simp] theorem body_ops (i : Instr) (s : State) : (body i s).ops = s.ops := by
  cases i with
  | wr a v => exact s.writeAddr_ops a v
  | init => exact s.drawnInit_ops
  | _ => rfl

/-- The events that an operation emits: six for a successful INIT, and else those of a live instance's operation. -/
def emitted (i : Instr) (s : State) : List Event :=
  if i = .init ∧ Config.initOk s.draws = true then initEvents s.params else eventsOf s.params i

/-- An operation appends its events to the trace, whatever it holds, and reads nothing of it (10_state.md R32). -/
theorem body_with_trace (i : Instr) (s : State) (other : List Event) :
    body i { s with trace := other } = { body i s with trace := other ++ emitted i s } := by
  cases i with
  | rd a => simp [body, emitted, eventsOf, State.reply, State.readAddr, State.byteAt]
  | wr a v => simp [body, emitted, State.writeAddr_eq]
  | fb => simp [body, emitted, eventsOf, State.reply, State.feedback, State.byteAt]
  | rst => simp [body, emitted, eventsOf, State.emit]
  | init =>
    cases hok : Config.initOk s.draws with
    | true => simp [body, emitted, State.drawnInit_of_ok, hok]
    | false => simp [body, emitted, eventsOf, State.drawnInit_of_not_ok, hok]
  | close => simp [body, emitted, eventsOf]

theorem body_trace (i : Instr) (s : State) : (body i s).trace = s.trace ++ emitted i s :=
  congrArg State.trace (body_with_trace i s s.trace)

/-- The only operation that emits an Attach is a WRITE to the port with bit 0 set (41_write.md R90). -/
theorem attach_mem_emitted {i : Instr} {s : State} {x : IoAddr} (h : .attach x ∈ emitted i s) :
    ∃ v, i = .wr (cfgPort s.params) v ∧ en v = true := by
  unfold emitted at h
  split at h
  · simp [initEvents] at h
  · cases i with
    | wr a v =>
      by_cases ha : a = cfgPort s.params
      · subst ha
        refine ⟨v, rfl, ?_⟩
        by_contra hv
        simp [eventsOf, writeEvents, hv] at h
      · simp [eventsOf, ha] at h
    | rst => simp [eventsOf] at h
    | _ => cases h

/-! ### Frames -/

/-- Settles O35: both only hand back a result, on which no other field depends. -/
theorem frameOfReadAndFeedback : Obligations.FrameOfReadAndFeedback := by
  intro s t i hi h
  obtain ⟨r, rfl⟩ : ∃ r, t = s.reply r := by
    obtain ⟨-, rfl⟩ := exec_eq_next.1 h
    obtain ⟨a, rfl⟩ | rfl := hi <;> exact ⟨_, rfl⟩
  exact ⟨rfl, fun a => s.reply_readAddr r a, rfl, rfl, rfl, rfl, rfl, rfl, rfl, r, rfl⟩

/-- Settles O36: the fields after a WRITE, of which the gate guards the bytes, the latches and the trace. -/
theorem frameOfWrite : Obligations.FrameOfWrite := by
  intro s t a v h
  obtain ⟨-, rfl⟩ := exec_wr_eq_next.1 h
  refine ⟨fun b hb => ?_, fun hgate => ?_, s.writeAddr_live a v, s.writeAddr_params a v, s.writeAddr_ops a v,
    s.writeAddr_replies a v, ?_⟩
  · have hother : ¬ (a = cfgPort s.params ∧ idx b = modeIndex) := by
      rintro ⟨rfl, hidx⟩
      exact hb ⟨by simp, by simpa using hidx⟩
    rw [State.readAddr, State.writeAddr_byteAt, if_neg hother, State.readAddr]
  · have ha : a ≠ cfgPort s.params := fun ha => by simp [ha, accepts] at hgate
    rw [State.writeAddr_other v ha]
    exact ⟨rfl, rfl, rfl⟩
  · rw [State.writeAddr_eq]

/-- Settles O37: RESET and CLOSE each change one field, and INIT by its draw. -/
theorem frameOfResetCloseAndInit : Obligations.FrameOfResetCloseAndInit := by
  intro s t
  refine ⟨fun h => ?_, fun h => ?_, fun h => ?_⟩
  · obtain ⟨-, rfl⟩ := exec_eq_next.1 h
    exact ⟨rfl, fun _ => rfl, rfl, rfl, rfl, rfl, rfl, rfl, rfl⟩
  · obtain ⟨-, rfl⟩ := exec_eq_next.1 h
    exact ⟨rfl, rfl, rfl, rfl, rfl, rfl, rfl, rfl⟩
  · obtain ⟨hdead, rfl⟩ := exec_eq_next.1 h
    rw [inLifecycle_init] at hdead
    refine ⟨s.drawnInit_params, s.drawnInit_ops, fun hfailed => ?_⟩
    have hok : Config.initOk s.draws = false := (State.drawnInit_live hdead).symm.trans hfailed
    rw [body, State.drawnInit_of_not_ok hok]
    exact ⟨rfl, rfl, rfl, rfl⟩

/-! ### Who may read and who may write -/

/-- An address with the port's low three bits selects the mode byte (20_memory.md R41). -/
theorem State.readAddr_mode {a : Addr} (s : State) (h : a.toNat % 8 = 2) : s.readAddr a = s.cfg[2] := by
  have hidx : idx a = modeIndex := BitVec.eq_of_toNat_eq ((idx_toNat a).trans h)
  rw [State.readAddr, hidx]
  rfl

/-- The index of an index, taken as an address, is itself. -/
theorem idx_setWidth (k : Bits3) : idx (k.setWidth 16) = k := by
  revert k
  decide

/-- Settles O39: each byte has an address, and the bytes after an operation are those of WRITE and INIT or as before. -/
theorem configurationByteAccessRights : Obligations.ConfigurationByteAccessRights := by
  constructor
  · intro s k hlive
    refine ⟨k.setWidth 16, _, exec_rd_live _ hlive, ?_⟩
    rw [State.reply_replies, State.readAddr, idx_setWidth]
    rfl
  · intro s t i h k
    obtain ⟨hlife, rfl⟩ := exec_eq_next.1 h
    cases i with
    | wr a v =>
      have hport : k = (cfgPort s.params).extractLsb' 0 3 ∧ k = 2#3 ↔ k = modeIndex := by
        rw [show (cfgPort s.params).extractLsb' 0 3 = modeIndex from idx_cfgPort s.params]
        exact and_self_iff
      simp only [hport]
      exact s.writeAddr_byteAt a v k
    | init => exact State.drawnInit_byteAt ((inLifecycle_init s).1 hlife) k
    | _ => rfl

/-- Settles O40: the attach latch after each operation, and MAP by its two cases. -/
theorem attachLatchDrivesTheMapping : Obligations.AttachLatchDrivesTheMapping := by
  refine ⟨fun s t i h => ?_, rfl, fun s => ⟨State.mapOut_attached, State.mapOut_detached⟩⟩
  obtain ⟨hlife, rfl⟩ := exec_eq_next.1 h
  refine ⟨congrArg Config.Params.baseAddr (body_params i s), ?_⟩
  cases i with
  | wr a v => exact s.writeAddr_att a v
  | init => exact State.drawnInit_att ((inLifecycle_init s).1 hlife)
  | _ => rfl

/-- Settles O41: the channel latch after each operation. -/
theorem channelLatchWriters : Obligations.ChannelLatchWriters := by
  refine ⟨fun s t i h => ?_, rfl⟩
  obtain ⟨hlife, rfl⟩ := exec_eq_next.1 h
  cases i with
  | wr a v => exact s.writeAddr_dma a v
  | init => exact State.drawnInit_dma ((inLifecycle_init s).1 hlife)
  | _ => rfl

/-- An operation that is neither INIT nor a WRITE to the port keeps the bytes. -/
theorem body_cfg {i : Instr} {s : State} (hinit : i ≠ .init) (hwr : ∀ v, i ≠ .wr (cfgPort s.params) v) :
    (body i s).cfg = s.cfg := by
  cases i with
  | wr a v =>
    have ha : a ≠ cfgPort s.params := fun ha => hwr v (by rw [ha])
    exact congrArg State.cfg (State.writeAddr_other v ha)
  | init => exact absurd rfl hinit
  | _ => rfl

/-- Settles O38: the literal, the addresses that select it, its writers, and the accepted write. -/
theorem modeByteAccess : Obligations.ModeByteAccess := by
  refine ⟨⟨rfl, rfl, rfl⟩, ?_, ?_, ?_⟩
  · intro s a hlive ha
    rw [exec_rd_live a hlive, State.readAddr_mode s ha, State.reply]
  · intro s t i h hchanged
    obtain ⟨-, rfl⟩ := exec_eq_next.1 h
    by_contra hnone
    push Not at hnone
    exact hchanged (by simp only [body_cfg hnone.1 hnone.2])
  · intro s v hlive
    exact ⟨_, exec_wr_port v hlive, s.setByte_byteAt_same modeIndex v, rfl, rfl,
      congrArg en (s.setByte_byteAt_same modeIndex v)⟩

/-- An operation of a live instance emits no SetIrq. -/
theorem setIrq_not_mem_eventsOf (p : Config.Params) (i : Instr) (n : Nat) : .setIrq n ∉ eventsOf p i := by
  intro h
  obtain ⟨_, _, _, h | h | h⟩ | ⟨_, h⟩ := mem_eventsOf h <;> cases h

/-- Settles O43: INIT's events hold one SetIrq, and those of the other operations none. -/
theorem interruptLineIsConstant : Obligations.InterruptLineIsConstant := by
  intro s t i h
  obtain ⟨hlife, rfl⟩ := exec_eq_next.1 h
  refine ⟨congrArg Config.Params.irqLine (body_params i s), emitted i s, body_trace i s, ?_⟩
  have hsucceeds : i = .init ∧ (body i s).live = true ↔ i = .init ∧ Config.initOk s.draws = true := by
    refine and_congr_right fun hi => ?_
    subst hi
    rw [body, State.drawnInit_live ((inLifecycle_init s).1 hlife)]
  simp only [hsucceeds, emitted]
  split
  · rfl
  · refine List.filter_eq_nil_iff.2 fun e he => ?_
    cases e with
    | setIrq n => exact absurd he (setIrq_not_mem_eventsOf s.params i n)
    | _ => exact Bool.false_ne_true

end Sys2Proof.Machine
end

section
/-! Consequences of an accepted WRITE: fields without effect, the next READ or FEEDBACK, and the pseudo-operations
(30_encoding.md R67, R70, 70_reset_and_hazards.md R155). -/

namespace Sys2Proof.Machine

open Sys2Proof.Safety

/-- The mode byte that an accepted WRITE leaves is its value (41_write.md R90). -/
theorem State.setByte_mode (s : State) (v : Byte) : (s.setByte modeIndex v).cfg[2] = v :=
  s.setByte_byteAt_same modeIndex v

/-- Values with the same bit 0 and channel emit the same events. -/
theorem writeEvents_congr (p : Config.Params) {v w : Byte} (hen : en v = en w) (hch : ch v = ch w) :
    writeEvents p v = writeEvents p w := by
  rw [writeEvents_eq, writeEvents_eq, hen, hch]

/-- Settles O23: every output after an accepted WRITE is a function of bit 0 and the channel of its value. -/
theorem reservedAndRoutingBitsHaveNoEffect : Obligations.ReservedAndRoutingBitsHaveNoEffect := by
  intro s v w hlive hbit hfield
  have hen : en v = en w := hbit
  have hch : ch v = ch w := hfield
  refine ⟨_, _, exec_wr_port v hlive, exec_wr_port w hlive, hen, hch, ?_, ?_, ?_, s.setByte_mode v, s.setByte_mode w⟩
  · exact congrArg (s.trace ++ ·) (writeEvents_congr s.params hen hch)
  · simp only [State.mapOut, State.setByte_params, hen]
  · calc en (s.setByte modeIndex v).cfg[2]
      _ = en v := congrArg en (s.setByte_mode v)
      _ = en w := hen
      _ = en (s.setByte modeIndex w).cfg[2] := (congrArg en (s.setByte_mode w)).symm

/-- Settles O24: the state after the accepted WRITE is live, and its mode byte is the value. -/
theorem readAfterWriteSeesTheWrite : Obligations.ReadAfterWriteSeesTheWrite := by
  intro s t a v h ha
  obtain ⟨hlive, rfl⟩ := exec_wr_eq_next.1 h
  have htlive : (s.writeAddr (cfgPort s.params) v).live = true := by rw [State.writeAddr_live, hlive]
  have hmode : (s.writeAddr (cfgPort s.params) v).cfg[2] = v := (s.writeAddr_modeByte _ v).trans (if_pos rfl)
  constructor
  · rw [exec_rd_live a htlive, State.readAddr_mode _ ha, hmode, State.reply]
  · rw [exec_fb_live htlive, State.feedback_eq_getLsbD, hmode, State.reply]

/-- The mode byte of ENABLE is 16 times its channel and 1: attached, on that channel (30_encoding.md R70). -/
theorem enable_byte (c : Bits3) :
    c.setWidth 8 <<< 4 ||| 0x01#8 = BitVec.ofNat 8 (16 * c.toNat + 1) ∧
      en (c.setWidth 8 <<< 4 ||| 0x01#8) = true ∧ ch (c.setWidth 8 <<< 4 ||| 0x01#8) = c := by
  revert c
  decide

/-- The mode byte of DISABLE is 16 times its channel: detached, on that channel (30_encoding.md R70). -/
theorem disable_byte (c : Bits3) :
    c.setWidth 8 <<< 4 = BitVec.ofNat 8 (16 * c.toNat) ∧
      en (c.setWidth 8 <<< 4) = false ∧ ch (c.setWidth 8 <<< 4) = c := by
  revert c
  decide

/-- Settles O25: the bytes of ENABLE and DISABLE, and the accepted WRITE of each. -/
theorem pseudoOperationsReconfigure : Obligations.PseudoOperationsReconfigure := by
  intro s c v hlive
  refine ⟨?_, ?_, rfl⟩
  · obtain ⟨hbyte, hen, hch⟩ := enable_byte c
    rw [expand, exec_wr_port _ hlive, writeEvents_of_en _ hen, hen, hch, hbyte]
    rfl
  · obtain ⟨hbyte, hen, hch⟩ := disable_byte c
    rw [expand, exec_wr_port _ hlive, writeEvents_of_not_en _ hen, hen, hch, hbyte]
    rfl

end Sys2Proof.Machine
end

section
/-! What no operation reads: the bytes where there is no instance, the latches and the trace (10_state.md R32 and
section 6, 70_reset_and_hazards.md R151). -/

namespace Sys2Proof.Machine

open Sys2Proof.Safety

/-- In two states that agree on `live` an operation is refused, or it runs its body in both. -/
theorem exec_of_live_eq (i : Instr) {s t : State} (h : t.live = s.live) :
    (exec i s = .refused .nomove ∧ exec i t = .refused .nomove) ∨
      (inLifecycle i s ∧ exec i s = .next (body i s) ∧ exec i t = .next (body i t)) := by
  by_cases hs : inLifecycle i s
  · exact .inr ⟨hs, exec_of_inLifecycle hs, exec_of_inLifecycle ((inLifecycle_congr h).2 hs)⟩
  · exact .inl ⟨exec_of_not_inLifecycle hs, exec_of_not_inLifecycle (mt (inLifecycle_congr h).1 hs)⟩

/-- INIT does not read the bytes, and when it succeeds it overwrites them. -/
theorem State.drawnInit_with_cfg (s : State) (c : Vector Byte 8) :
    { s with cfg := c }.drawnInit =
      if Config.initOk s.draws then s.drawnInit else { s.drawnInit with cfg := c } := by
  cases hok : Config.initOk s.draws with
  | true => simp [State.drawnInit_of_ok, hok]
  | false => simp [State.drawnInit_of_not_ok, hok]

/-- Settles O44: where there is no instance INIT alone runs. -/
theorem deadStorageIsNeverRead : Obligations.DeadStorageIsNeverRead := by
  intro i s c hdead
  obtain hrefused | ⟨hlife, hs, hc⟩ := exec_of_live_eq i (s := s) (t := { s with cfg := c }) rfl
  · exact .inl hrefused
  · obtain rfl : i = .init := by
      by_contra hi
      exact Bool.false_ne_true (hdead.symm.trans ((inLifecycle_of_ne_init hi s).1 hlife))
    refine .inr ⟨_, _, hs, hc, ?_⟩
    rw [body, body, s.drawnInit_with_cfg c]
    cases hok : Config.initOk s.draws with
    | true => exact ⟨rfl, fun _ => rfl⟩
    | false =>
      have hfailed : s.drawnInit.live = false := (State.drawnInit_live hdead).trans hok
      exact ⟨rfl, fun hlive => absurd (hfailed.symm.trans hlive) Bool.false_ne_true⟩

/-- Settles O45: READ, FEEDBACK, RESET and CLOSE touch neither latch, WRITE and INIT write both or neither. -/
theorem latchesAreNeverRead : Obligations.LatchesAreNeverRead := by
  intro i s att dma
  obtain hrefused | ⟨-, hs, hlatches⟩ := exec_of_live_eq i (s := s) (t := { s with att := att, dma := dma }) rfl
  · exact .inl hrefused
  · refine .inr ⟨_, _, hs, hlatches, ?_⟩
    cases i with
    | wr a v =>
      by_cases ha : a = cfgPort s.params
      · simp [body, State.writeAddr_eq, ha]
      · simp [body, State.writeAddr_eq, ha]
    | init =>
      cases hok : Config.initOk s.draws with
      | true => simp [body, State.drawnInit_of_ok, hok]
      | false => simp [body, State.drawnInit_of_not_ok, hok]
    | _ => exact ⟨rfl, rfl, rfl, rfl, .inr ⟨rfl, rfl, rfl, rfl⟩⟩

/-- Settles O46: an operation's body appends the same events to any trace. -/
theorem traceIsNeverRead : Obligations.TraceIsNeverRead := by
  intro i s other
  obtain hrefused | ⟨-, hs, hother⟩ := exec_of_live_eq i (s := s) (t := { s with trace := other }) rfl
  · exact .inl hrefused
  · rw [body_with_trace] at hother
    exact .inr ⟨_, _, hs, body_trace i s, hother⟩

end Sys2Proof.Machine
end

section
/-! The invariants of every step (10_state.md R21 to R25, R34, R35, 60_exceptions.md R137, 70_reset_and_hazards.md
R153): each is kept by the five ways in which an operation can change what the invariant speaks of. -/

namespace Sys2Proof.Machine

open Sys2Proof.Safety

/-- A property of the spec's part of the state that an accepted WRITE, RESET, a successful INIT and CLOSE keep is kept
by every step: READ, FEEDBACK, an ignored WRITE and a failed INIT change the model's own fields alone. -/
theorem step_keeps_of_operations {P : State → Prop}
    (hown : ∀ s ws rs n, P s → P { s with ops := ws, replies := rs, draws := n })
    (hwrite : ∀ s v, s.live = true → P s → P (s.acceptedWrite (cfgPort s.params) v))
    (hreset : ∀ s, s.live = true → P s → P (s.emit .engineReset))
    (hconstruct : ∀ s, s.live = false → P s → P s.construct)
    (hclose : ∀ s, s.live = true → P s → P { s with live := false }) :
    ∀ s t, P s → step s = .next t → P t := by
  refine step_keeps (fun s ws hs => hown s ws _ _ hs) fun s t i hs h => ?_
  obtain ⟨hlife, rfl⟩ := exec_eq_next.1 h
  cases i with
  | rd a => exact hown s s.ops _ s.draws hs
  | wr a v =>
    by_cases ha : a = cfgPort s.params
    · rw [body, State.writeAddr_port v ha, ← State.acceptedWrite_port]
      exact hwrite s v hlife hs
    · rw [body, State.writeAddr_other v ha]
      exact hs
  | fb => exact hown s s.ops _ s.draws hs
  | rst => exact hreset s hlife hs
  | init =>
    cases hok : Config.initOk s.draws with
    | true =>
      rw [body, State.drawnInit, hok]
      exact hown _ s.ops _ _ (hconstruct { s with draws := s.draws + 1 } hlife (hown s _ _ _ hs))
    | false =>
      rw [body, State.drawnInit, hok]
      exact hown s s.ops _ _ hs
  | close => exact hclose s hlife hs

/-! ### The bytes and the latches -/

theorem attachAgrees_construct (s : State) : AttachAgrees s.construct := by
  rw [State.construct_eq]
  have hreset : en resetCfg[2] = false := by decide
  exact fun _ => hreset.symm

theorem attachAgrees_acceptedWrite (s : State) (p : Config.Params) (v : Byte) :
    AttachAgrees (s.acceptedWrite (cfgPort p) v) := by
  rw [State.acceptedWrite_port]
  exact fun _ => (congrArg en (s.setByte_byteAt_same modeIndex v)).symm

/-- Settles O47: an accepted WRITE sets both from its value, and INIT sets both to 0. -/
theorem stepKeepsAttachAgreement : Obligations.StepKeepsAttachAgreement :=
  step_keeps_of_operations (fun _ _ _ _ h => h)
    (fun s v _ _ => attachAgrees_acceptedWrite s s.params v) (fun _ _ h => h)
    (fun s _ _ => attachAgrees_construct s) (fun _ _ _ => nofun)

theorem fixedBytesHold_construct (s : State) : FixedBytesHold s.construct := by
  rw [State.construct_eq]
  exact fun _ _ _ => rfl

theorem fixedBytesHold_acceptedWrite {s : State} (p : Config.Params) (v : Byte) (hlive : s.live = true)
    (h : FixedBytesHold s) : FixedBytesHold (s.acceptedWrite (cfgPort p) v) := by
  rw [State.acceptedWrite_port]
  exact fixedBytesHold_of_byteAt_eq h hlive fun _ hk => s.setByte_byteAt_other v hk

/-- Settles O48: an accepted WRITE stores at the mode byte alone, and INIT stores the literals. -/
theorem stepKeepsFixedBytes : Obligations.StepKeepsFixedBytes :=
  step_keeps_of_operations (fun _ _ _ _ h => h)
    (fun s v hlive h => fixedBytesHold_acceptedWrite s.params v hlive h) (fun _ _ h => h)
    (fun s _ _ => fixedBytesHold_construct s) (fun _ _ _ => nofun)

theorem channelAgrees_construct (s : State) : ChannelAgrees s.construct := by
  rw [State.construct_eq]
  intro _
  rw [writtenSinceInit_init, if_neg Bool.false_ne_true]

theorem channelAgrees_acceptedWrite (s : State) (p : Config.Params) (v : Byte) :
    ChannelAgrees (s.acceptedWrite (cfgPort p) v) := by
  rw [State.acceptedWrite_port]
  intro _
  rw [writtenSinceInit_write, if_pos rfl]
  exact (congrArg ch (s.setByte_byteAt_same modeIndex v)).symm

/-- RESET changes neither the channel nor whether a WRITE has been accepted. -/
theorem channelAgrees_reset {s : State} (h : ChannelAgrees s) : ChannelAgrees (s.emit .engineReset) := by
  intro hlive
  rw [State.emit_trace, writtenSinceInit_engineReset]
  exact h hlive

/-- Settles O49: after an accepted WRITE one has been accepted, and after INIT none has. -/
theorem stepKeepsChannelAgreement : Obligations.StepKeepsChannelAgreement :=
  step_keeps_of_operations (fun _ _ _ _ h => h) (fun s v _ _ => channelAgrees_acceptedWrite s s.params v)
    (fun _ _ h => channelAgrees_reset h) (fun s _ _ => channelAgrees_construct s) (fun _ _ _ => nofun)

/-! ### The outputs and the trace -/

/-- What a successful INIT tells the engine, whatever it was told before (42_lifecycle.md R112). -/
theorem engineView_initEvents (t : List Event) (p : Config.Params) :
    engineView (t ++ initEvents p) = ⟨none, some p.defaultDma⟩ := by
  simp [initEvents, EngineView.after]

/-- What an accepted WRITE tells the engine, whatever it was told before (41_write.md R92). -/
theorem engineView_writeEvents (t : List Event) (p : Config.Params) (v : Byte) :
    engineView (t ++ writeEvents p v) = ⟨if en v then some p.baseAddr else none, some (ch v)⟩ := by
  cases hv : en v <;> simp [writeEvents, hv, EngineView.after]

/-- RESET's event changes nothing of the view (60_exceptions.md R137). -/
theorem engineView_engineReset (t : List Event) : engineView (t ++ [.engineReset]) = engineView t := by
  simp [EngineView.after]

theorem outputsMatchTrace_construct (s : State) : OutputsMatchTrace s.construct := by
  rw [State.construct_eq]
  exact ⟨fun _ => by simp [initEvents], fun _ => engineView_initEvents s.trace s.params⟩

theorem outputsMatchTrace_acceptedWrite (s : State) (p : Config.Params) (v : Byte) :
    OutputsMatchTrace (s.acceptedWrite (cfgPort p) v) := by
  rw [State.acceptedWrite_port]
  exact ⟨fun _ => by simp [writeEvents_eq], fun _ => engineView_writeEvents s.trace s.params v⟩

theorem outputsMatchTrace_reset {s : State} (hlive : s.live = true) (h : OutputsMatchTrace s) :
    OutputsMatchTrace (s.emit .engineReset) :=
  ⟨fun _ => by simp, fun _ => (engineView_engineReset s.trace).trans (h.2 (h.1 hlive))⟩

/-- Settles O50: the events of an accepted WRITE and of INIT alone determine the view, RESET's changes none of it, and
the outputs do not depend on `live`. -/
theorem stepKeepsOutputsMatchingTheTrace : Obligations.StepKeepsOutputsMatchingTheTrace :=
  step_keeps_of_operations (fun _ _ _ _ h => h) (fun s v _ _ => outputsMatchTrace_acceptedWrite s s.params v)
    (fun _ hlive h => outputsMatchTrace_reset hlive h) (fun s _ _ => outputsMatchTrace_construct s)
    (fun _ _ h => ⟨nofun, h.2⟩)

/-- INIT's SetDma follows on its SetIrq, and it emits no Attach (42_lifecycle.md R112). -/
theorem traceOrdered_initEvents {base : IoAddr} {t : List Event} (p : Config.Params) (h : TraceOrdered base t) :
    TraceOrdered base (t ++ initEvents p) := by
  have hirq : TraceOrdered base (t ++ [.create] ++ [.setIrq p.irqLine]) :=
    (h.snoc_plain (e := .create) nofun nofun).snoc_plain nofun nofun
  have hdma : TraceOrdered base (t ++ [.create] ++ [.setIrq p.irqLine] ++ [.setDma p.defaultDma]) :=
    hirq.snoc (fun _ _ => .inr ⟨p.irqLine, by simp⟩) nofun
  have hall := ((hdma.snoc_plain (e := .setBase p.baseAddr) nofun nofun).snoc_plain (e := .detach) nofun
    nofun).snoc_plain (e := .register) nofun nofun
  simpa [initEvents] using hall

/-- A WRITE's SetDma follows on its Detach, and its Attach, which is of the base, on both (41_write.md R92). -/
theorem traceOrdered_writeEvents {t : List Event} (p : Config.Params) (v : Byte) (h : TraceOrdered p.baseAddr t) :
    TraceOrdered p.baseAddr (t ++ writeEvents p v) := by
  have hdma : TraceOrdered p.baseAddr (t ++ [.detach] ++ [.setDma (ch v)]) :=
    (h.snoc_plain (e := .detach) nofun nofun).snoc (fun _ _ => .inl (by simp)) nofun
  cases hv : en v with
  | false => simpa [writeEvents_of_not_en p hv] using hdma
  | true =>
    have hattach : TraceOrdered p.baseAddr (t ++ [.detach] ++ [.setDma (ch v)] ++ [.attach p.baseAddr]) :=
      hdma.snoc nofun fun x hx => ⟨(Event.attach.inj hx).symm, t, ch v, by simp⟩
    simpa [writeEvents_of_en p hv] using hattach

theorem traceSafe_construct {s : State} (h : TraceSafe s) : TraceSafe s.construct := by
  rw [State.construct_eq]
  exact traceOrdered_initEvents s.params h

theorem traceSafe_acceptedWrite {s : State} (p : Config.Params) (v : Byte) (h : TraceSafe s) :
    TraceSafe (s.acceptedWrite (cfgPort p) v) := by
  rw [State.acceptedWrite_port]
  exact traceOrdered_writeEvents s.params v h

/-- Settles O51: each operation appends events that are ordered among themselves. -/
theorem stepKeepsTraceOrder : Obligations.StepKeepsTraceOrder :=
  step_keeps_of_operations (fun _ _ _ _ h => h) (fun s v _ h => traceSafe_acceptedWrite s.params v h)
    (fun _ _ h => TraceOrdered.snoc_plain h nofun nofun) (fun _ _ h => traceSafe_construct h) (fun _ _ h => h)

/-- Before the first INIT the trace is empty, and so ordered. -/
theorem traceSafe_powerOnOf (p : Config.Params) : TraceSafe (State.powerOnOf p) := by
  constructor <;> simp [State.powerOnOf]

/-- Settles O52: the reset state is that of a successful INIT from power-on, but for the model's own fields. -/
theorem resetMeetsTheInvariants : Obligations.ResetMeetsTheInvariants :=
  let before := State.powerOnOf Config.params
  ⟨attachAgrees_construct before, fixedBytesHold_construct before, channelAgrees_construct before,
    outputsMatchTrace_construct before, traceSafe_construct (traceSafe_powerOnOf Config.params)⟩

end Sys2Proof.Machine
end

section
/-! A detached engine stays detached until the host writes the port with bit 0 set (70_reset_and_hazards.md R152). -/

namespace Sys2Proof.Machine

open Sys2Proof.Safety

/-- The operation is no WRITE to the port with bit 0 set. -/
def notEnabling (p : Config.Params) (i : Instr) : Prop :=
  ∀ v, i = .wr (cfgPort p) v → en v = false

/-- Such an operation keeps the engine detached. -/
theorem body_att_of_notEnabling {i : Instr} {s : State} (hatt : s.att = false) (hi : notEnabling s.params i) :
    (body i s).att = false := by
  cases i with
  | wr a v =>
    rw [body, State.writeAddr_att]
    split
    case isTrue ha => exact hi v (by rw [ha])
    case isFalse => exact hatt
  | init =>
    rw [body, State.drawnInit_eq]
    split
    · rfl
    · exact hatt
  | _ => exact hatt

/-- Such an operation emits no Attach. -/
theorem attach_not_mem_emitted {i : Instr} {s : State} (hi : notEnabling s.params i) (x : IoAddr) :
    .attach x ∉ emitted i s := by
  intro hx
  obtain ⟨v, rfl, hv⟩ := attach_mem_emitted hx
  exact Bool.false_ne_true ((hi v rfl).symm.trans hv)

/-- Settles O55: a step waits or runs one operation, which the hypothesis says is no enabling WRITE. -/
theorem stepKeepsTheEngineDetached : Obligations.StepKeepsTheEngineDetached := by
  intro s t hatt hnext hstep
  obtain ⟨-, rfl⟩ | ⟨w, rest, i, hops, hw, hexec⟩ := step_eq_next hstep
  · exact ⟨hatt, State.mapOut_detached hatt, [], (List.append_nil _).symm, fun _ => List.not_mem_nil⟩
  · have hi : notEnabling s.params i := fun v hv => hnext w rest v hops (hv ▸ hw)
    obtain ⟨-, rfl⟩ := exec_eq_next.1 hexec
    have htatt : (body i { s with ops := rest }).att = false := body_att_of_notEnabling hatt hi
    exact ⟨htatt, State.mapOut_detached htatt, _, body_trace i _, attach_not_mem_emitted hi⟩

/-- An operation that a live instance stays live after. -/
theorem body_live_of_staysLive {i : Instr} (hi : staysLive i = true) (s : State) : (body i s).live = s.live := by
  cases i with
  | wr a v => exact s.writeAddr_live a v
  | init => cases hi
  | close => cases hi
  | _ => rfl

/-- A live instance runs an operation it stays live after. -/
theorem exec_of_staysLive {i : Instr} {s : State} (hi : staysLive i = true) (hlive : s.live = true) :
    exec i s = .next (body i s) := by
  have hne : i ≠ .init := by
    rintro rfl
    cases hi
  exact exec_of_inLifecycle ((inLifecycle_of_ne_init hne s).2 hlive)

/-- A run of such operations, none of which enables, ends detached and emits no Attach. -/
theorem run_detached {s : State} {is : List Instr} (hops : s.ops = is.map encode) (hlive : s.live = true)
    (hatt : s.att = false) (his : ∀ i ∈ is, staysLive i = true) (hnot : ∀ i ∈ is, notEnabling s.params i) :
    ∃ t new, core.run is.length s = .next t ∧ t.att = false ∧ t.trace = s.trace ++ new ∧ ∀ x, .attach x ∉ new := by
  induction is generalizing s with
  | nil => exact ⟨s, [], rfl, hatt, (List.append_nil _).symm, fun _ => List.not_mem_nil⟩
  | cons i is ih =>
    obtain ⟨hi, his⟩ := List.forall_mem_cons.1 his
    obtain ⟨hinot, hnot⟩ := List.forall_mem_cons.1 hnot
    let s' : State := { s with ops := is.map encode }
    have hstep : step s = .next (body i s') := (step_encode hops).trans (exec_of_staysLive hi hlive)
    obtain ⟨t, new, hrun, htatt, htrace, hnew⟩ := ih (s := body i s') (body_ops i s')
      ((body_live_of_staysLive hi s').trans hlive) (body_att_of_notEnabling hatt hinot) his
      (by rwa [body_params])
    refine ⟨t, emitted i s' ++ new, (run_succ_of_next is.length hstep).trans hrun, htatt, ?_, ?_⟩
    · rw [htrace, body_trace, List.append_assoc]
    · intro x hx
      exact (List.mem_append.1 hx).elim (attach_not_mem_emitted hinot x) (hnew x)

/-- Settles O54, by induction on the operations. -/
theorem engineStaysDetachedUntilEnabled : Obligations.EngineStaysDetachedUntilEnabled := by
  intro s is hlive hnone hatt his hnot
  have hops : (s.issue (is.map encode)).ops = is.map encode := by simp [hnone]
  obtain ⟨t, new, hrun, htatt, htrace, hnew⟩ := run_detached hops hlive hatt his
    (fun i hi v hv => hnot v (hv ▸ hi))
  exact ⟨t, new, hrun, htatt, State.mapOut_detached htatt, htrace, hnew⟩

end Sys2Proof.Machine
end
